-- ==== Sys2Proof/Word.lean ====
section
/-! DEFINITION. The word types of the core: bytes, 16-bit words, 12-bit addresses and nibbles. -/
namespace Sys2Proof

/-- Eight bits: a `V` register, a timer, a byte of memory (10_state.md R11, R17, R18, R20). -/
abbrev Byte := BitVec 8

/-- Sixteen bits: an opcode, `PC`, `I`, a stack entry, `EXIT_CODE` (10_state.md R10). -/
abbrev Word := BitVec 16

/-- The 12-bit address field `nnn` of an opcode (30_encoding.md R86). -/
abbrev Addr := BitVec 12

/-- A 4-bit number: one nibble of an opcode, the sprite height `n`, a key (00_scope.md R6). -/
abbrev Nibble := Fin 16

/-- The number of a general register: every nibble names one (10_state.md R11). -/
abbrev Reg := Fin 16

end Sys2Proof
end

