-- ==== Sys2Proof/Syntax.lean ====
section
/-! DEFINITION. The instructions: one constructor for each of the 36 rows of spec/opcode_table.json, with
the argument fields of 30_encoding.md R86 as its arguments. -/
namespace Sys2Proof

/-- The instruction set of 30_encoding.md R84, in its declaration order. -/
inductive Instr where
  /-- CLS (`00E0`, R181): clear the display. -/
  | cls
  /-- RET (`00EE`, R131): return from subroutine. -/
  | ret
  /-- SYS (`0nnn`, R130): system call, a no-operation. -/
  | sys (nnn : Addr)
  /-- JP (`1nnn`, R132): jump to `nnn`; a self-jump halts. -/
  | jp (nnn : Addr)
  /-- CALL (`2nnn`, R133): call the subroutine at `nnn`. -/
  | call (nnn : Addr)
  /-- SE (`3xkk`, R140): skip if `V[x] = kk`. -/
  | se (x : Reg) (kk : Byte)
  /-- SNE (`4xkk`, R141): skip if `V[x] ≠ kk`. -/
  | sne (x : Reg) (kk : Byte)
  /-- SEV (`5xy0`, R142): skip if `V[x] = V[y]`. -/
  | sev (x y : Reg)
  /-- LD (`6xkk`, R151): `V[x] <- kk`. -/
  | ld (x : Reg) (kk : Byte)
  /-- ADD (`7xkk`, R152): `V[x] <- V[x] + kk`, no flag. -/
  | add (x : Reg) (kk : Byte)
  /-- LDV (`8xy0`, R153): `V[x] <- V[y]`. -/
  | ldv (x y : Reg)
  /-- OR (`8xy1`, R154): `V[x] <- V[x] OR V[y]`. -/
  | or (x y : Reg)
  /-- AND (`8xy2`, R155): `V[x] <- V[x] AND V[y]`. -/
  | and (x y : Reg)
  /-- XOR (`8xy3`, R156): `V[x] <- V[x] XOR V[y]`. -/
  | xor (x y : Reg)
  /-- ADDV (`8xy4`, R157): add registers, `VF` = carry. -/
  | addv (x y : Reg)
  /-- SUB (`8xy5`, R158): `V[x] − V[y]`, `VF` = not borrow. -/
  | sub (x y : Reg)
  /-- SHR (`8xy6`, R159): shift `V[x]` right, `VF` = bit out; `y` is kept though unused (R102). -/
  | shr (x y : Reg)
  /-- SUBN (`8xy7`, R160): `V[y] − V[x]`, `VF` = not borrow. -/
  | subn (x y : Reg)
  /-- SHL (`8xyE`, R161): shift `V[x]` left, `VF` = bit out; `y` is kept though unused (R102). -/
  | shl (x y : Reg)
  /-- SNEV (`9xy0`, R143): skip if `V[x] ≠ V[y]`. -/
  | snev (x y : Reg)
  /-- LDI (`Annn`, R170): `I <- nnn`. -/
  | ldi (nnn : Addr)
  /-- JPV0 (`Bnnn`, R134): jump to `nnn + V[0]`. -/
  | jpv0 (nnn : Addr)
  /-- RND (`Cxkk`, R162): `V[x] <- random AND kk`. -/
  | rnd (x : Reg) (kk : Byte)
  /-- DRW (`Dxyn`, R182): draw an `n`-row sprite, `VF` = collision. -/
  | drw (x y : Reg) (n : Nibble)
  /-- SKP (`Ex9E`, R144): skip if key `V[x]` is pressed. -/
  | skp (x : Reg)
  /-- SKNP (`ExA1`, R145): skip if key `V[x]` is not pressed. -/
  | sknp (x : Reg)
  /-- LDDT (`Fx07`, R191): `V[x] <- DT`. -/
  | lddt (x : Reg)
  /-- LDKP (`Fx0A`, R194): wait for a key, `V[x] <- key`. -/
  | ldkp (x : Reg)
  /-- STDT (`Fx15`, R192): `DT <- V[x]`. -/
  | stdt (x : Reg)
  /-- STST (`Fx18`, R193): `ST <- V[x]`. -/
  | stst (x : Reg)
  /-- ADDI (`Fx1E`, R171): `I <- I + V[x]`. -/
  | addi (x : Reg)
  /-- LDF (`Fx29`, R172): `I <-` address of glyph `V[x]`. -/
  | ldf (x : Reg)
  /-- LDBC (`Fx33`, R173): store BCD of `V[x]` at `I`. -/
  | ldbc (x : Reg)
  /-- LDMW (`Fx55`, R174): store `V[0..x]` at `I`, `I += x`. -/
  | ldmw (x : Reg)
  /-- LDMR (`Fx65`, R175): load `V[0..x]` from `I`, `I += x`. -/
  | ldmr (x : Reg)
  /-- ASSERT (`F999`, R200): debug exit, exit code = `I`. -/
  | assert
deriving DecidableEq, Repr

end Sys2Proof
end

