-- ==== Sys2Proof/WellFormed.lean ====
section
/-! DEFINITION. Which terms of `Instr` are instructions: those that some opcode decodes to. -/
namespace Sys2Proof

/-- The three words that the template `0nnn` matches and that are not SYS: 0x0000 is no instruction
(30_encoding.md R101), 0x00E0 is CLS and 0x00EE is RET (30_encoding.md R89). -/
def sysTarget (nnn : Addr) : Bool := nnn != 0x000 && nnn != 0x0E0 && nnn != 0x0EE

/-- An instruction is well-formed when it has an encoding. Every argument of every row but SYS may take
every value of its field (30_encoding.md R86); SYS has no word for three values of `nnn` (40_flow.md R130). -/
def Instr.wellFormed : Instr → Bool
  | .cls => true
  | .ret => true
  | .sys nnn => sysTarget nnn
  | .jp _ => true
  | .call _ => true
  | .se _ _ => true
  | .sne _ _ => true
  | .sev _ _ => true
  | .ld _ _ => true
  | .add _ _ => true
  | .ldv _ _ => true
  | .or _ _ => true
  | .and _ _ => true
  | .xor _ _ => true
  | .addv _ _ => true
  | .sub _ _ => true
  | .shr _ _ => true
  | .subn _ _ => true
  | .shl _ _ => true
  | .snev _ _ => true
  | .ldi _ => true
  | .jpv0 _ => true
  | .rnd _ _ => true
  | .drw _ _ _ => true
  | .skp _ => true
  | .sknp _ => true
  | .lddt _ => true
  | .ldkp _ => true
  | .stdt _ => true
  | .stst _ => true
  | .addi _ => true
  | .ldf _ => true
  | .ldbc _ => true
  | .ldmw _ => true
  | .ldmr _ => true
  | .assert => true

end Sys2Proof
end

