-- ==== Sys2Proof/Decode.lean ====
section
/-! DEFINITION. The InstructionMatcher and the Decoder of 30_encoding.md, the encoder written from the
same table, and the mask-and-match form of the decoder. -/
namespace Sys2Proof

/-! ### Nibbles -/

/-- `nib0 = op[15:12]` (00_scope.md R6). -/
def nib0 (op : Word) : Nibble := Fin.ofNat 16 (op.toNat / 4096)

/-- `nib1 = op[11:8]` (00_scope.md R6). -/
def nib1 (op : Word) : Nibble := Fin.ofNat 16 (op.toNat / 256)

/-- `nib2 = op[7:4]` (00_scope.md R6). -/
def nib2 (op : Word) : Nibble := Fin.ofNat 16 (op.toNat / 16)

/-- `nib3 = op[3:0]` (00_scope.md R6). -/
def nib3 (op : Word) : Nibble := Fin.ofNat 16 op.toNat

/-- The four nibbles in template order, position 0 first (00_scope.md R6). -/
def nibbles (op : Word) : List Nibble := [nib0 op, nib1 op, nib2 op, nib3 op]

/-! ### Templates and the InstructionMatcher -/

/-- An instruction template: four characters, positions 0 to 3 from left to right (30_encoding.md R81). -/
structure Template where
  c0 : Char
  c1 : Char
  c2 : Char
  c3 : Char
deriving DecidableEq, Repr

/-- The characters of a template in position order. -/
def Template.chars (t : Template) : List Char := [t.c0, t.c1, t.c2, t.c3]

/-- `val(c)`: a digit or a letter A to F of either case is a literal with that value; any other
character is a placeholder and has none (30_encoding.md R82). -/
def litVal (c : Char) : Option Nat :=
  let n := c.toNat
  if 48 ≤ n ∧ n ≤ 57 then some (n - 48)
  else if 65 ≤ n ∧ n ≤ 70 then some (n - 55)
  else if 97 ≤ n ∧ n ≤ 102 then some (n - 87)
  else none

/-- A literal that differs from the nibble at its position (30_encoding.md R83). -/
def mismatch (c : Char) (n : Nibble) : Bool :=
  match litVal c with
  | some v => v != n.val
  | none => false

/-- The number of literal positions of a template (30_encoding.md R83). -/
def literalCount (t : Template) : Nat := (t.chars.filter fun c => (litVal c).isSome).length

/-- `matches(opcode) → score`: 0 if any fixed nibble mismatches, else the number of fixed nibbles
(30_encoding.md R83). -/
def score (t : Template) (op : Word) : Nat :=
  if (t.chars.zip (nibbles op)).any (fun p => mismatch p.1 p.2) then 0 else literalCount t

/-- `getArgument(opcode, letter) → value`: the nibbles at the positions that carry the letter, left to
right, by successive 4-bit left-shifts; 0 for a letter the template lacks (30_encoding.md R86). -/
def getArgument (t : Template) (op : Word) (letter : Char) : Nat :=
  (t.chars.zip (nibbles op)).foldl (fun acc p => if p.1 = letter then acc * 16 + p.2.val else acc) 0

/-! ### The template table -/

/-- A row of the template table: the template, and the instruction that the arguments extracted by it
make (30_encoding.md R84, R86). -/
structure Row where
  template : Template
  build : (Char → Nat) → Instr

/-- The argument `x`, a register number (30_encoding.md R86). -/
def argX (arg : Char → Nat) : Reg := Fin.ofNat 16 (arg 'x')

/-- The argument `y`, a register number (30_encoding.md R86). -/
def argY (arg : Char → Nat) : Reg := Fin.ofNat 16 (arg 'y')

/-- The argument `kk`, `getArgument(op, 'k')` (30_encoding.md R86). -/
def argKK (arg : Char → Nat) : Byte := BitVec.ofNat 8 (arg 'k')

/-- The argument `nnn`, `getArgument(op, 'n')` of a three-letter field (30_encoding.md R86). -/
def argNNN (arg : Char → Nat) : Addr := BitVec.ofNat 12 (arg 'n')

/-- The argument `n` of `Dxyn` (30_encoding.md R86). -/
def argN (arg : Char → Nat) : Nibble := Fin.ofNat 16 (arg 'n')

/-- Rows 1 to 10 of 30_encoding.md R84. -/
def rows1 : List Row :=
  [⟨⟨'0', '0', 'E', '0'⟩, fun _ => .cls⟩,
   ⟨⟨'0', '0', 'E', 'E'⟩, fun _ => .ret⟩,
   ⟨⟨'0', 'n', 'n', 'n'⟩, fun a => .sys (argNNN a)⟩,
   ⟨⟨'1', 'n', 'n', 'n'⟩, fun a => .jp (argNNN a)⟩,
   ⟨⟨'2', 'n', 'n', 'n'⟩, fun a => .call (argNNN a)⟩,
   ⟨⟨'3', 'x', 'k', 'k'⟩, fun a => .se (argX a) (argKK a)⟩,
   ⟨⟨'4', 'x', 'k', 'k'⟩, fun a => .sne (argX a) (argKK a)⟩,
   ⟨⟨'5', 'x', 'y', '0'⟩, fun a => .sev (argX a) (argY a)⟩,
   ⟨⟨'6', 'x', 'k', 'k'⟩, fun a => .ld (argX a) (argKK a)⟩,
   ⟨⟨'7', 'x', 'k', 'k'⟩, fun a => .add (argX a) (argKK a)⟩]

/-- Rows 11 to 19 of 30_encoding.md R84. -/
def rows2 : List Row :=
  [⟨⟨'8', 'x', 'y', '0'⟩, fun a => .ldv (argX a) (argY a)⟩,
   ⟨⟨'8', 'x', 'y', '1'⟩, fun a => .or (argX a) (argY a)⟩,
   ⟨⟨'8', 'x', 'y', '2'⟩, fun a => .and (argX a) (argY a)⟩,
   ⟨⟨'8', 'x', 'y', '3'⟩, fun a => .xor (argX a) (argY a)⟩,
   ⟨⟨'8', 'x', 'y', '4'⟩, fun a => .addv (argX a) (argY a)⟩,
   ⟨⟨'8', 'x', 'y', '5'⟩, fun a => .sub (argX a) (argY a)⟩,
   ⟨⟨'8', 'x', 'y', '6'⟩, fun a => .shr (argX a) (argY a)⟩,
   ⟨⟨'8', 'x', 'y', '7'⟩, fun a => .subn (argX a) (argY a)⟩,
   ⟨⟨'8', 'x', 'y', 'E'⟩, fun a => .shl (argX a) (argY a)⟩]

/-- Rows 20 to 26 of 30_encoding.md R84. -/
def rows3 : List Row :=
  [⟨⟨'9', 'x', 'y', '0'⟩, fun a => .snev (argX a) (argY a)⟩,
   ⟨⟨'A', 'n', 'n', 'n'⟩, fun a => .ldi (argNNN a)⟩,
   ⟨⟨'B', 'n', 'n', 'n'⟩, fun a => .jpv0 (argNNN a)⟩,
   ⟨⟨'C', 'x', 'k', 'k'⟩, fun a => .rnd (argX a) (argKK a)⟩,
   ⟨⟨'D', 'x', 'y', 'n'⟩, fun a => .drw (argX a) (argY a) (argN a)⟩,
   ⟨⟨'E', 'x', '9', 'E'⟩, fun a => .skp (argX a)⟩,
   ⟨⟨'E', 'x', 'A', '1'⟩, fun a => .sknp (argX a)⟩]

/-- Rows 27 to 36 of 30_encoding.md R84. -/
def rows4 : List Row :=
  [⟨⟨'F', 'x', '0', '7'⟩, fun a => .lddt (argX a)⟩,
   ⟨⟨'F', 'x', '0', 'A'⟩, fun a => .ldkp (argX a)⟩,
   ⟨⟨'F', 'x', '1', '5'⟩, fun a => .stdt (argX a)⟩,
   ⟨⟨'F', 'x', '1', '8'⟩, fun a => .stst (argX a)⟩,
   ⟨⟨'F', 'x', '1', 'E'⟩, fun a => .addi (argX a)⟩,
   ⟨⟨'F', 'x', '2', '9'⟩, fun a => .ldf (argX a)⟩,
   ⟨⟨'F', 'x', '3', '3'⟩, fun a => .ldbc (argX a)⟩,
   ⟨⟨'F', 'x', '5', '5'⟩, fun a => .ldmw (argX a)⟩,
   ⟨⟨'F', 'x', '6', '5'⟩, fun a => .ldmr (argX a)⟩,
   ⟨⟨'F', '9', '9', '9'⟩, fun _ => .assert⟩]

/-- `TEMPLATES`, "constructed once at startup from a static table, never mutated" (30_encoding.md R81,
R84), in declaration order. -/
def templateRows : List Row := rows1 ++ rows2 ++ rows3 ++ rows4

/-! ### The Decoder -/

/-- Why a word is no instruction. -/
inductive DecodeError where
  /-- The opcode 0x0000, the sentinel of blank memory (30_encoding.md R101). -/
  | blank
  /-- Every template scores 0 (30_encoding.md R85, R100). -/
  | noTemplate
  /-- Fewer than two bytes were given: no opcode at all (30_encoding.md R80). -/
  | truncated
deriving DecidableEq, Repr

/-- The loop of 30_encoding.md R85 over the rows still to be tried, with the best row so far and its
score: a strictly greater score replaces it, so the first declared of equals wins. -/
def bestOf (op : Word) (best : Option Row) (bestScore : Nat) : List Row → Option Row
  | [] => best
  | r :: rest =>
    if bestScore < score r.template op then bestOf op (some r) (score r.template op) rest
    else bestOf op best bestScore rest

/-- The template with the strictly highest score, the first declared among equals; none when every
score is 0 (30_encoding.md R85). -/
def bestRow (op : Word) : Option Row := bestOf op none 0 templateRows

/-- `decode(opcode) → Instruction | none` (30_encoding.md R85), none under its name. -/
def decodeOp (op : Word) : Except DecodeError Instr :=
  if op = 0x0000 then .error .blank
  else
    match bestRow op with
    | some r => .ok (r.build (getArgument r.template op))
    | none => .error .noTemplate

/-- An opcode from its two bytes, the byte at the lower address first and high (20_memory.md R64). -/
def opcodeOf (hi lo : Byte) : Word := hi ++ lo

/-- Decoding of a byte string: the instruction in its first two bytes and the rest (30_encoding.md R80). -/
def decodeBytes : List Byte → Except DecodeError (Instr × List Byte)
  | hi :: lo :: rest =>
    match decodeOp (opcodeOf hi lo) with
    | .ok i => .ok (i, rest)
    | .error e => .error e
  | _ => .error .truncated

/-! ### The encoder, by the formats of 30_encoding.md R87 -/

/-- Format `NNN`: `Lnnn`. -/
def encNNN (l : Nat) (nnn : Addr) : Word := BitVec.ofNat 16 (l * 4096 + nnn.toNat)

/-- Format `XKK`: `Lxkk`. -/
def encXKK (l : Nat) (x : Reg) (kk : Byte) : Word := BitVec.ofNat 16 (l * 4096 + x.val * 256 + kk.toNat)

/-- Format `XYL`: `LxyL`; and `XYN`: `Lxyn`, whose last nibble is an argument. -/
def encXYN (l : Nat) (x y : Reg) (n : Nat) : Word :=
  BitVec.ofNat 16 (l * 4096 + x.val * 256 + y.val * 16 + n)

/-- Format `XLL`: `LxLL`. -/
def encXLL (l : Nat) (x : Reg) (ll : Nat) : Word := BitVec.ofNat 16 (l * 4096 + x.val * 256 + ll)

/-- The opcode of an instruction (30_encoding.md R84, R87). -/
def encode : Instr → Word
  | .cls => 0x00E0
  | .ret => 0x00EE
  | .sys nnn => encNNN 0x0 nnn
  | .jp nnn => encNNN 0x1 nnn
  | .call nnn => encNNN 0x2 nnn
  | .se x kk => encXKK 0x3 x kk
  | .sne x kk => encXKK 0x4 x kk
  | .sev x y => encXYN 0x5 x y 0x0
  | .ld x kk => encXKK 0x6 x kk
  | .add x kk => encXKK 0x7 x kk
  | .ldv x y => encXYN 0x8 x y 0x0
  | .or x y => encXYN 0x8 x y 0x1
  | .and x y => encXYN 0x8 x y 0x2
  | .xor x y => encXYN 0x8 x y 0x3
  | .addv x y => encXYN 0x8 x y 0x4
  | .sub x y => encXYN 0x8 x y 0x5
  | .shr x y => encXYN 0x8 x y 0x6
  | .subn x y => encXYN 0x8 x y 0x7
  | .shl x y => encXYN 0x8 x y 0xE
  | .snev x y => encXYN 0x9 x y 0x0
  | .ldi nnn => encNNN 0xA nnn
  | .jpv0 nnn => encNNN 0xB nnn
  | .rnd x kk => encXKK 0xC x kk
  | .drw x y n => encXYN 0xD x y n.val
  | .skp x => encXLL 0xE x 0x9E
  | .sknp x => encXLL 0xE x 0xA1
  | .lddt x => encXLL 0xF x 0x07
  | .ldkp x => encXLL 0xF x 0x0A
  | .stdt x => encXLL 0xF x 0x15
  | .stst x => encXLL 0xF x 0x18
  | .addi x => encXLL 0xF x 0x1E
  | .ldf x => encXLL 0xF x 0x29
  | .ldbc x => encXLL 0xF x 0x33
  | .ldmw x => encXLL 0xF x 0x55
  | .ldmr x => encXLL 0xF x 0x65
  | .assert => 0xF999

/-- The high byte of an opcode, stored at the lower address (30_encoding.md R80). -/
def highByte (op : Word) : Byte := BitVec.ofNat 8 (op.toNat / 256)

/-- The low byte of an opcode (30_encoding.md R80). -/
def lowByte (op : Word) : Byte := BitVec.ofNat 8 op.toNat

/-- An instruction's bytes as they lie in memory, big-endian (20_memory.md R64). -/
def encodeBytes (i : Instr) : List Byte := [highByte (encode i), lowByte (encode i)]

/-! ### The mask-and-match form of the decoder (30_encoding.md R89) -/

/-- The bits `op[11:8]`. -/
def fieldX (op : Word) : Reg := Fin.ofNat 16 (op.toNat / 256)

/-- The bits `op[7:4]`. -/
def fieldY (op : Word) : Reg := Fin.ofNat 16 (op.toNat / 16)

/-- The bits `op[7:0]`. -/
def fieldKK (op : Word) : Byte := BitVec.ofNat 8 op.toNat

/-- The bits `op[11:0]`. -/
def fieldNNN (op : Word) : Addr := BitVec.ofNat 12 op.toNat

/-- The bits `op[3:0]`. -/
def fieldN (op : Word) : Nibble := Fin.ofNat 16 op.toNat

/-- A row of spec/opcode_table.json: its `mask`, its `match` value and the instruction its bit fields
make. -/
structure MaskRow where
  mask : Word
  value : Word
  build : Word → Instr

/-- A word lies in a row when `op & mask = match` (30_encoding.md R89). -/
def MaskRow.covers (r : MaskRow) (op : Word) : Bool := op &&& r.mask == r.value

/-- The rows of spec/opcode_table.json with mask 0xF000, but for SYS. -/
def maskRows1 : List MaskRow :=
  [⟨0xF000, 0x1000, fun op => .jp (fieldNNN op)⟩,
   ⟨0xF000, 0x2000, fun op => .call (fieldNNN op)⟩,
   ⟨0xF000, 0x3000, fun op => .se (fieldX op) (fieldKK op)⟩,
   ⟨0xF000, 0x4000, fun op => .sne (fieldX op) (fieldKK op)⟩,
   ⟨0xF000, 0x6000, fun op => .ld (fieldX op) (fieldKK op)⟩,
   ⟨0xF000, 0x7000, fun op => .add (fieldX op) (fieldKK op)⟩,
   ⟨0xF000, 0xA000, fun op => .ldi (fieldNNN op)⟩,
   ⟨0xF000, 0xB000, fun op => .jpv0 (fieldNNN op)⟩,
   ⟨0xF000, 0xC000, fun op => .rnd (fieldX op) (fieldKK op)⟩,
   ⟨0xF000, 0xD000, fun op => .drw (fieldX op) (fieldY op) (fieldN op)⟩]

/-- The rows of spec/opcode_table.json with mask 0xF00F. -/
def maskRows2 : List MaskRow :=
  [⟨0xF00F, 0x5000, fun op => .sev (fieldX op) (fieldY op)⟩,
   ⟨0xF00F, 0x8000, fun op => .ldv (fieldX op) (fieldY op)⟩,
   ⟨0xF00F, 0x8001, fun op => .or (fieldX op) (fieldY op)⟩,
   ⟨0xF00F, 0x8002, fun op => .and (fieldX op) (fieldY op)⟩,
   ⟨0xF00F, 0x8003, fun op => .xor (fieldX op) (fieldY op)⟩,
   ⟨0xF00F, 0x8004, fun op => .addv (fieldX op) (fieldY op)⟩,
   ⟨0xF00F, 0x8005, fun op => .sub (fieldX op) (fieldY op)⟩,
   ⟨0xF00F, 0x8006, fun op => .shr (fieldX op) (fieldY op)⟩,
   ⟨0xF00F, 0x8007, fun op => .subn (fieldX op) (fieldY op)⟩,
   ⟨0xF00F, 0x800E, fun op => .shl (fieldX op) (fieldY op)⟩,
   ⟨0xF00F, 0x9000, fun op => .snev (fieldX op) (fieldY op)⟩]

/-- The rows of spec/opcode_table.json with mask 0xF0FF, and ASSERT with mask 0xFFFF. -/
def maskRows3 : List MaskRow :=
  [⟨0xF0FF, 0xE09E, fun op => .skp (fieldX op)⟩,
   ⟨0xF0FF, 0xE0A1, fun op => .sknp (fieldX op)⟩,
   ⟨0xF0FF, 0xF007, fun op => .lddt (fieldX op)⟩,
   ⟨0xF0FF, 0xF00A, fun op => .ldkp (fieldX op)⟩,
   ⟨0xF0FF, 0xF015, fun op => .stdt (fieldX op)⟩,
   ⟨0xF0FF, 0xF018, fun op => .stst (fieldX op)⟩,
   ⟨0xF0FF, 0xF01E, fun op => .addi (fieldX op)⟩,
   ⟨0xF0FF, 0xF029, fun op => .ldf (fieldX op)⟩,
   ⟨0xF0FF, 0xF033, fun op => .ldbc (fieldX op)⟩,
   ⟨0xF0FF, 0xF055, fun op => .ldmw (fieldX op)⟩,
   ⟨0xF0FF, 0xF065, fun op => .ldmr (fieldX op)⟩,
   ⟨0xFFFF, 0xF999, fun _ => .assert⟩]

/-- The 34 rows of spec/opcode_table.json other than CLS and RET; SYS is the catch-all of nibble 0. -/
def maskRows : List MaskRow :=
  ⟨0xF000, 0x0000, fun op => .sys (fieldNNN op)⟩ :: (maskRows1 ++ maskRows2 ++ maskRows3)

/-- "decode equals: none if op = 0x0000; else CLS if op = 0x00E0; else RET if op = 0x00EE; else the
unique row of opcode_table.json with op & mask = match, if any; else none" (30_encoding.md R89). -/
def maskDecode (op : Word) : Option Instr :=
  if op = 0x0000 then none
  else if op = 0x00E0 then some .cls
  else if op = 0x00EE then some .ret
  else (maskRows.find? fun r => r.covers op).map fun r => r.build op

/-! ### The host's word form -/

/-- The instruction read from a table word: `w` cut to `nbits` bits, laid out as the two bytes the
hardware stores, high byte first (20_memory.md R64). -/
def decodeTableWord (nbits w : Nat) : Option Instr :=
  let op : Word := BitVec.ofNat 16 (w % 2 ^ nbits)
  match decodeBytes [highByte op, lowByte op] with
  | .ok (i, _) => some i
  | .error _ => none

end Sys2Proof
end

