-- ==== Sys2Proof/Config.lean ====
section
/-! DEFINITION. The constants of this hardware (00_scope.md R5) and the free values: what the spec leaves
to "any value" has no body here, so that nothing can be proved of it. -/
namespace Sys2Proof.Config

/-- `MEM_SIZE`: bytes of memory (00_scope.md R5). -/
def memSize : Nat := 4096

/-- `ORIGIN`: the program load address and the reset value of `PC` (00_scope.md R5). -/
def origin : Nat := 0x200

/-- `INSTR_BYTES`: every instruction's length (00_scope.md R5, 30_encoding.md R80). -/
def instrBytes : Nat := 2

/-- `GLYPH_BYTES`: bytes of one font glyph (00_scope.md R5). -/
def glyphBytes : Nat := 5

/-- `FONT_BASE`: the first byte of the font table, `ORIGIN − 16 × 5` (20_memory.md R68). -/
def fontBase : Nat := 0x1B0

/-- `I_MASK`: applied at every write of `I` (10_state.md R14). -/
def iMask : Word := 0x0FFF

/-- `DISPLAY_W` (00_scope.md R5). -/
def displayW : Nat := 64

/-- `DISPLAY_H` (00_scope.md R5). -/
def displayH : Nat := 32

/-- `SPRITE_W` (00_scope.md R5). -/
def spriteW : Nat := 8

/-- The largest image `LOAD` accepts, `MEM_SIZE − 0x200` (15_interfaces.md R43). -/
def maxImage : Nat := 3584

/-- `STACK_DEPTH` is OPEN with default 16 (00_scope.md R5); a state carries its own depth, and this is
the one the reset state has (log entry 6). -/
def defaultStackDepth : Option Nat := some 16

/-- `FONT_DATA`: glyphs 0 to 3 (20_memory.md R69). -/
def glyphs0to3 : List Byte :=
  [0xF0, 0x90, 0x90, 0x90, 0xF0,  0x20, 0x60, 0x20, 0x20, 0x70,
   0xF0, 0x10, 0xF0, 0x80, 0xF0,  0xF0, 0x10, 0xF0, 0x10, 0xF0]

/-- `FONT_DATA`: glyphs 4 to 7 (20_memory.md R69). -/
def glyphs4to7 : List Byte :=
  [0x90, 0x90, 0xF0, 0x10, 0x10,  0xF0, 0x80, 0xF0, 0x10, 0xF0,
   0xF0, 0x80, 0xF0, 0x90, 0xF0,  0xF0, 0x10, 0x20, 0x40, 0x40]

/-- `FONT_DATA`: glyphs 8 to B (20_memory.md R69). -/
def glyphs8toB : List Byte :=
  [0xF0, 0x90, 0xF0, 0x90, 0xF0,  0xF0, 0x90, 0xF0, 0x10, 0xF0,
   0xF0, 0x90, 0xF0, 0x90, 0x90,  0xE0, 0x90, 0xE0, 0x90, 0xE0]

/-- `FONT_DATA`: glyphs C to F (20_memory.md R69). -/
def glyphsCtoF : List Byte :=
  [0xF0, 0x80, 0x80, 0x80, 0xF0,  0xE0, 0x90, 0x90, 0x90, 0xE0,
   0xF0, 0x80, 0xF0, 0x80, 0xF0,  0xF0, 0x80, 0xF0, 0x80, 0x80]

/-- The default of `FONT_DATA[0..79]`, the customary font, glyph 0 first, each glyph's top row first
(20_memory.md R69). -/
def fontData : List Byte := glyphs0to3 ++ glyphs4to7 ++ glyphs8toB ++ glyphsCtoF

/-- `FONT_DATA` is a parameter of the model (20_memory.md R69); a state carries its own font, and this is
the one the reset state has (log entry 18). -/
def defaultFont : Vector Byte 80 := ⟨fontData.toArray, rfl⟩

/-- The byte that the `k`-th unscheduled sample of `RND_IN` presents: "a free 8-bit input under no law"
(15_interfaces.md R50, 93_implementation_defined.md U1). -/
opaque rndSample : Nat → Byte

/-- What `V[WAIT_REG]` holds after a key wait that `CONTINUE` = 0 ended: "unspecified (any 8-bit value)"
(45_timer_key.md R195, 93_implementation_defined.md U2). -/
opaque cancelledKey : Nat → Byte

end Sys2Proof.Config
end

