-- ==== Sys2Proof/Machine/State.lean ====
section
/-! DEFINITION. Every piece of state the spec gives the machine (10_state.md R10), the fatal conditions,
the model's own fields (what the host does next, the port samples, the pulses of the step, the counter of
free values), and the state after reset. -/
namespace Sys2Proof.Machine

/-- The values of `RUN` (10_state.md R22). -/
inductive RunState where
  | ready
  | running
  | waitKey
  | haltedNormal
  | haltedLoop
  | haltedExternal
  | haltedFault
deriving DecidableEq, Repr

/-- `FAULT.kind` (10_state.md R24). -/
inductive FaultKind where
  | none
  | decodeFailure
  | stackUnderflow
  | outOfBounds
  | stackOverflow
deriving DecidableEq, Repr

/-- The fault record `FAULT` (10_state.md R24). -/
structure FaultRecord where
  kind : FaultKind
  opcode : Word
  addr : Word
deriving DecidableEq, Repr

/-- The fatal conditions, a closed list (60_exceptions.md R210). A fatal condition is what an operation
raises; the machine TAKES it, in a next state whose `RUN` is Halted-Fault (60_exceptions.md R214), so no
step of this model ever answers `Host.Outcome.fault`. -/
inductive Fault where
  /-- Raised by the cycle itself when the opcode matches no template (60_exceptions.md R211).
  Safe: the spec names the condition and the model takes it as the spec says. -/
  | decodeFailure
  /-- Raised by RET with an empty call stack (60_exceptions.md R212).
  Safe: the spec names the condition and the model takes it as the spec says. -/
  | stackUnderflow
  /-- Raised by the fetch, DRW, LDBC, LDMW and LDMR for a span that is not inside memory; it carries the
  lowest invalid address (60_exceptions.md R213).
  Safe: the spec names the condition and the model takes it as the spec says. -/
  | outOfBounds (addr : Nat)
  /-- Raised by CALL with a full call stack, only when `STACK_DEPTH` is finite (60_exceptions.md R215).
  Safe: "a finite stack only adds faults" (92_eei_decisions.md D9). -/
  | stackOverflow
deriving DecidableEq, Repr

/-- What the model declines. -/
inductive Refusal where
  /-- Raised by the dispatch for an instruction without a meaning, under its mnemonic; no arm raises it.
  Safe: the model stops where the hardware goes on. -/
  | notModelled (mnemonic : String)
  /-- Raised by the host event that changes `EXT_TIMER` while a run is in progress: the host is "assumed
  never to do" so (15_interfaces.md R58) and the spec's treatment is to refuse
  (93_implementation_defined.md U26). Safe: the model stops. -/
  | extTimerChangedDuringRun
deriving DecidableEq, Repr

/-- The draw request (00_scope.md R9, 15_interfaces.md R52): origin, height in rows, row-major bitmap;
its width is always 8. -/
structure DrawReq where
  x : Byte
  y : Byte
  h : Nibble
  bitmap : List Bool
deriving DecidableEq, Repr

/-- What the core emits on its pulse outputs (15_interfaces.md R40). -/
inductive Pulse where
  /-- One tick was serviced for `TICK_DUE` (R46). -/
  | tickAck
  /-- `ST` was non-zero at a tick (R53). -/
  | beep
  /-- The address of the instruction just fetched (R54). -/
  | dbgAddr (address : Word)
  /-- The key a SKP or SKNP asks about (R48). -/
  | keyQuery (key : Byte)
  /-- The display was cleared (R51). -/
  | clear
  /-- A sprite is drawn (R52). -/
  | drawReq (req : DrawReq)
deriving DecidableEq, Repr

/-- What the host does between two steps of the engine (15_interfaces.md). -/
inductive HostEvent where
  /-- Nothing: the engine takes its next step. -/
  | pass
  /-- The command `RESET` (R41). -/
  | reset
  /-- The command `START` (R42). -/
  | start
  /-- The command `LOAD` (R43). -/
  | load (image : List Byte)
  /-- The level input `CONTINUE` takes a value (R44). -/
  | setContinue (level : Bool)
  /-- The level input `EXT_TIMER` takes a value (R45). -/
  | setExtTimer (level : Bool)
  /-- The level input `TICK_DUE` takes a value (R46). -/
  | setTickDue (level : Bool)
  /-- The answers `KEY_DOWN` would give, bit `k` to the query of `k`, take a value (R48). -/
  | setKeyDown (answers : BitVec 256)
  /-- The event `EXT_TICK` (R47). -/
  | extTick
  /-- The event `KEY_EVENT(k)` (R49). -/
  | keyEvent (k : Nibble)
  /-- `KEY_EVENT(k)` and `CONTINUE` = 0 arriving together (45_timer_key.md R195). -/
  | keyEventAndStop (k : Nibble)
deriving DecidableEq, Repr

/-- Memory: the bytes that differ from what an unlisted address reads as (`Memory.blank`), by rising
address (`Memory.wf`). -/
abbrev Memory := List Host.Cell

/-- The display plane `FB`: 32 rows of 64 one-bit cells, row 0 at the top; column 0, the left edge, is a
row's most significant bit (10_state.md R21, 44_display.md R180). -/
abbrev Plane := Vector (BitVec 64) 32

/-- The complete state of the core (10_state.md R10), then the model's own fields. -/
structure State where
  /-- `V[0..15]` (10_state.md R11); `V[15]` is VF (R12). -/
  v : Vector Byte 16
  /-- `I`, stored in 16 bits (10_state.md R14). -/
  i : Word
  /-- `PC`, stored in 16 bits (10_state.md R15). -/
  pc : Word
  /-- `DT`, the delay timer (10_state.md R17). -/
  dt : Byte
  /-- `ST`, the sound timer (10_state.md R18). -/
  st : Byte
  /-- `STACK`: the slots from slot 0 up; a slot beyond the list holds 0 (10_state.md R19, R30). -/
  stack : List Word
  /-- `SP`, the count of valid entries (10_state.md R19). -/
  sp : Nat
  /-- `MEM` (10_state.md R20). -/
  mem : Memory
  /-- `FB` (10_state.md R21). -/
  fb : Plane
  /-- `RUN` (10_state.md R22). -/
  run : RunState
  /-- `EXIT_CODE` (10_state.md R23). -/
  exitCode : Word
  /-- `FAULT` (10_state.md R24). -/
  fault : FaultRecord
  /-- `WAIT_REG` (10_state.md R27). -/
  waitReg : Reg
  /-- The parameter `STACK_DEPTH`, `none` for `∞` (00_scope.md R5); no step writes it (log entry 6). -/
  stackDepth : Option Nat
  /-- The parameter `FONT_DATA[0..79]`, the bytes a reset writes (20_memory.md R69); no step writes it
  (log entry 18). -/
  font : Vector Byte 80
  /-- The present value of the level input `CONTINUE` (15_interfaces.md R44). -/
  contIn : Bool
  /-- The present value of the level input `EXT_TIMER` (15_interfaces.md R45). -/
  extTimer : Bool
  /-- The present value of the level input `TICK_DUE` (15_interfaces.md R46). -/
  tickDue : Bool
  /-- The host's present answers on `KEY_DOWN`, bit `k` to the query of `k` (15_interfaces.md R48). -/
  keyDown : BitVec 256
  /-- The samples `RND_IN` will present, the next first (15_interfaces.md R50). -/
  rndIn : List Byte
  /-- What the host does next, the first event first (15_interfaces.md R58). -/
  host : List HostEvent
  /-- What the last step emitted on the pulse outputs, in order (35_instruction_cycle.md R121). -/
  pulses : List Pulse
  /-- The model's own counter of the free values drawn so far. -/
  freeCtr : Nat
deriving DecidableEq, Repr

/-- The cleared fault record (10_state.md R24). -/
def FaultRecord.clear : FaultRecord := ⟨.none, 0, 0⟩

/-- The state after a reset at power-on (10_state.md R30, 20_memory.md R77): memory holds zeros and the
font, which is what unlisted addresses read as. `WAIT_REG` (log entry 2), `STACK_DEPTH` (log entry 6),
`FONT_DATA` (log entry 18) and the ports (log entry 3) have the values the log names. -/
def State.reset : State where
  v := Vector.replicate 16 0
  i := 0
  pc := 0x200
  dt := 0
  st := 0
  stack := []
  sp := 0
  mem := []
  fb := Vector.replicate 32 0
  run := .ready
  exitCode := 0
  fault := FaultRecord.clear
  waitReg := 0
  stackDepth := Config.defaultStackDepth
  font := Config.defaultFont
  contIn := true
  extTimer := false
  tickDue := false
  keyDown := 0
  rndIn := []
  host := []
  pulses := []
  freeCtr := 0

end Sys2Proof.Machine
end

