-- ==== Sys2Proof/Machine/Ops.lean ====
section
/-! DEFINITION. The named operations over memory, registers, the call stack, the timers and the run
state: the primitives of 00_scope.md R7, raising a fatal condition, and what the host's events do. -/
namespace Sys2Proof.Machine

/-- What a step of this machine answers. -/
abbrev Outcome := Host.Outcome State Fault Refusal

/-! ### Memory -/

/-- What an unlisted address reads as: the default font at 0x1B0..0x1FF (20_memory.md R68, R69), zero elsewhere
(20_memory.md R77). -/
def Memory.blank (a : Nat) : Byte :=
  if Config.fontBase ≤ a then Config.fontData.getD (a - Config.fontBase) 0 else 0

/-- `MEM[a]`. -/
def Memory.get : Memory → Nat → Byte
  | [], a => Memory.blank a
  | (k, b) :: rest, a => if k = a then b else Memory.get rest a

/-- `MEM[a] <- b`, keeping the canonical form. -/
def Memory.set : Memory → Nat → Byte → Memory
  | [], a, b => if b = Memory.blank a then [] else [(a, b)]
  | (k, c) :: rest, a, b =>
    if a < k then (if b = Memory.blank a then (k, c) :: rest else (a, b) :: (k, c) :: rest)
    else if a = k then (if b = Memory.blank a then rest else (a, b) :: rest)
    else (k, c) :: Memory.set rest a b

/-- Every listed address lies above `lo`. -/
def Memory.above (lo : Nat) (m : Memory) : Bool := m.all fun p => decide (lo < p.1)

/-- The canonical form: addresses of memory, strictly rising, and no byte equal to what its address would
read as unlisted. -/
def Memory.wf : Memory → Bool
  | [] => true
  | (k, b) :: rest =>
    decide (k < Config.memSize) && (b != Memory.blank k) && Memory.above k rest && Memory.wf rest

/-- The span `addr .. addr + n − 1` lies inside memory; an empty span touches nothing (20_memory.md R61). -/
def inRange (addr n : Nat) : Bool := n == 0 || decide (addr + n - 1 < Config.memSize)

/-- The bytes of a span, lowest address first, unchecked. -/
def readBytes (m : Memory) (addr : Nat) : Nat → List Byte
  | 0 => []
  | n + 1 => Memory.get m addr :: readBytes m (addr + 1) n

/-- The bytes of a list written from `addr` up, unchecked. -/
def writeBytes (m : Memory) (addr : Nat) : List Byte → Memory
  | [] => m
  | b :: bs => writeBytes (Memory.set m addr b) (addr + 1) bs

/-- The condition an access that is not in range raises: the lowest invalid address of its span
(20_memory.md R61). -/
def outOfRange (addr : Nat) : Fault := .outOfBounds (max addr Config.memSize)

/-- `MemRead(addr, n)` (20_memory.md R62). -/
def memRead (m : Memory) (addr n : Nat) : Except Fault (List Byte) :=
  if inRange addr n then .ok (readBytes m addr n) else .error (outOfRange addr)

/-- `MemWrite(addr, n, bytes)` with `n` the number of bytes (20_memory.md R63). -/
def memWrite (m : Memory) (addr : Nat) (bytes : List Byte) : Except Fault Memory :=
  if inRange addr bytes.length then .ok (writeBytes m addr bytes) else .error (outOfRange addr)

/-! ### Registers and the other named updates -/

/-- `V[x]` (00_scope.md R7). -/
def State.reg (s : State) (x : Reg) : Byte := s.v[x]

/-- `V[x] <- b` (00_scope.md R7). -/
def State.setReg (s : State) (x : Reg) (b : Byte) : State := { s with v := s.v.set x b }

/-- VF, the register that doubles as the flag (10_state.md R12). -/
abbrev vf : Reg := 15

/-- `I <- w & 0x0FFF`: every write of `I` is masked (10_state.md R14). -/
def State.setI (s : State) (w : Word) : State := { s with i := w &&& Config.iMask }

/-- `PC <- w` (10_state.md R15). -/
def State.setPc (s : State) (w : Word) : State := { s with pc := w }

/-- `DT <- b` (10_state.md R17). -/
def State.setDt (s : State) (b : Byte) : State := { s with dt := b }

/-- `ST <- b` (10_state.md R18). -/
def State.setSt (s : State) (b : Byte) : State := { s with st := b }

/-- `RUN <- r` (10_state.md R22). -/
def State.setRun (s : State) (r : RunState) : State := { s with run := r }

/-- The whole of `MEM` takes new contents. -/
def State.setMem (s : State) (m : Memory) : State := { s with mem := m }

/-- The whole of `FB` takes new contents. -/
def State.setFb (s : State) (p : Plane) : State := { s with fb := p }

/-- `pulse P` (15_interfaces.md R40). -/
def State.pulse (s : State) (p : Pulse) : State := { s with pulses := s.pulses ++ [p] }

/-- `V[k] <- bs[k]` for every `k` the list reaches (43_index_memory.md R175). -/
def State.loadRegs (s : State) (bs : List Byte) : State :=
  { s with v := Vector.ofFn fun k => bs.getD k.val s.v[k] }

/-- `a`, the address of the instruction in execution: `PC` was advanced by 2 before it began
(00_scope.md R7, 35_instruction_cycle.md R116). -/
def State.instrAddr (s : State) : Word := s.pc - 2

/-! ### The call stack -/

/-- `STACK[k] <- w`; slots not yet listed hold 0 (10_state.md R19, R30). -/
def setSlot : List Word → Nat → Word → List Word
  | [], 0, w => [w]
  | [], k + 1, w => 0 :: setSlot [] k w
  | _ :: rest, 0, w => w :: rest
  | a :: rest, k + 1, w => a :: setSlot rest k w

/-- `STACK[k]` (10_state.md R19). -/
def State.slot (s : State) (k : Nat) : Word := s.stack.getD k 0

/-- `SP = STACK_DEPTH`; never so when the depth is `∞` (10_state.md R25). A count beyond the depth, which
no run reaches, is full too. -/
def State.stackFull (s : State) : Bool :=
  match s.stackDepth with
  | some depth => decide (depth ≤ s.sp)
  | none => false

/-- `Push(v)` (10_state.md R25). -/
def push (w : Word) (s : State) : Except Fault State :=
  if s.stackFull then .error .stackOverflow
  else .ok { s with stack := setSlot s.stack s.sp w, sp := s.sp + 1 }

/-- `Pop()`: the value and the state after (10_state.md R26). -/
def pop (s : State) : Except Fault (Word × State) :=
  if s.sp = 0 then .error .stackUnderflow
  else .ok (s.slot (s.sp - 1), { s with sp := s.sp - 1 })

/-! ### Raising a fatal condition -/

/-- The code name a fatal condition records in `FAULT.kind` (60_exceptions.md R211 to R215). -/
def faultKind : Fault → FaultKind
  | .decodeFailure => .decodeFailure
  | .stackUnderflow => .stackUnderflow
  | .outOfBounds _ => .outOfBounds
  | .stackOverflow => .stackOverflow

/-- What a fatal condition records in `FAULT.addr`: the lowest invalid address for OutOfBounds, the
instruction's address `a` for the others (60_exceptions.md R216). -/
def faultAddr (f : Fault) (a : Word) : Word :=
  match f with
  | .outOfBounds addr => BitVec.ofNat 16 addr
  | .decodeFailure => a
  | .stackUnderflow => a
  | .stackOverflow => a

/-- `raise F(info)`: `FAULT` is written and `RUN <- Halted-Fault`; nothing else changes
(60_exceptions.md R214). `op` is what `FAULT.opcode` records. -/
def raise (f : Fault) (op : Word) (s : State) : State :=
  { s with
    fault := ⟨faultKind f, op, faultAddr f s.instrAddr⟩
    run := .haltedFault }

/-- The outcome of the rest of an instruction whose operation may raise: the condition is taken with the
opcode `op`, or the rest goes on with the operation's result. -/
def orRaise {α : Type} (op : Word) (s : State) (r : Except Fault α) (rest : α → State) : Outcome :=
  match r with
  | .ok a => .next (rest a)
  | .error f => .next (raise f op s)

/-! ### The timers -/

/-- A timer after a tick: "floor at zero" (35_instruction_cycle.md R120). -/
def countDown (t : Byte) : Byte := if t = 0 then 0 else t - 1

/-- The pulse of a tick: `BEEP` when `ST` is non-zero before it (35_instruction_cycle.md R120). -/
def beeps (s : State) : List Pulse := if s.st = 0 then [] else [.beep]

/-- `Tick()` (35_instruction_cycle.md R120). -/
def tick (s : State) : State :=
  { s with
    dt := countDown s.dt
    st := countDown s.st
    pulses := s.pulses ++ beeps s }

/-- Step 1 of the cycle, timer service (35_instruction_cycle.md R119, 15_interfaces.md R46). -/
def timerService (s : State) : State :=
  if !s.extTimer && s.tickDue then (tick s).pulse .tickAck else s

/-! ### Steps 2 to 4 and 6 of the cycle -/

/-- Step 2, the fetch: two consecutive bytes at `PC`, big-endian (35_instruction_cycle.md R114). -/
def fetch (s : State) : Except Fault Word :=
  match memRead s.mem s.pc.toNat Config.instrBytes with
  | .ok bs => .ok (opcodeOf (bs.getD 0 0) (bs.getD 1 0))
  | .error f => .error f

/-- Step 3, `pulse DBG_ADDR(a)` (35_instruction_cycle.md R115). -/
def notify (s : State) : State := s.pulse (.dbgAddr s.pc)

/-- Step 4, `PC <- a + 2` (35_instruction_cycle.md R116). -/
def advance (s : State) : State := s.setPc (s.pc + 2)

/-- `Skip()`: `PC <- PC + 2` (41_skip.md R146), when the condition holds. -/
def skipIf (c : Bool) (s : State) : State := s.setPc (if c then s.pc + 2 else s.pc)

/-- The end of a key wait without a key: `RUN <- Halted-External` and `V[WAIT_REG]` a free value
(45_timer_key.md R195). -/
def cancelWait (s : State) : State :=
  { s.setReg s.waitReg (Config.cancelledKey s.freeCtr) with
    run := .haltedExternal
    freeCtr := s.freeCtr + 1 }

/-- Step 6, the continue poll (35_instruction_cycle.md R118), with the watch on `CONTINUE` that a key wait
keeps (45_timer_key.md R195). -/
def poll (s : State) : State :=
  if s.contIn then s
  else
    match s.run with
    | .running => s.setRun .haltedExternal
    | .waitKey => cancelWait s
    | .ready => s
    | .haltedNormal => s
    | .haltedLoop => s
    | .haltedExternal => s
    | .haltedFault => s

/-- One sample of `RND_IN` (15_interfaces.md R50): the next byte the host presents, or a free value when
the state schedules none. -/
def sampleRnd (s : State) : Byte × State :=
  match s.rndIn with
  | b :: rest => (b, { s with rndIn := rest })
  | [] => (Config.rndSample s.freeCtr, { s with freeCtr := s.freeCtr + 1 })

/-- The answer on `KEY_DOWN` to a query of the 8-bit value `key` (15_interfaces.md R48). -/
def keyAnswer (s : State) (key : Byte) : Bool := s.keyDown.getLsbD key.toNat

/-! ### What the host's events do -/

/-- A run is in progress: `RUN` is Running or WaitKey (15_interfaces.md R41). -/
def State.inRun (s : State) : Bool := s.run = .running || s.run = .waitKey

/-- The reset of 70_reset_and_hazards.md R241: the state of `State.reset` but for memory, where only the
font is written, and the ports, the parameters and the model's counter, which a reset does not touch. -/
def resetCore (s : State) : State :=
  { State.reset with
    mem := writeBytes s.mem Config.fontBase s.font.toList
    stackDepth := s.stackDepth
    font := s.font
    contIn := s.contIn
    extTimer := s.extTimer
    tickDue := s.tickDue
    keyDown := s.keyDown
    rndIn := s.rndIn
    host := s.host
    pulses := s.pulses ++ [.clear]
    freeCtr := s.freeCtr }

/-- `RESET`, refused in a run (15_interfaces.md R41). -/
def hostReset (s : State) : State := if s.inRun then s else resetCore s

/-- `START`, refused in a run (15_interfaces.md R42, 70_reset_and_hazards.md R247). -/
def hostStart (s : State) : State :=
  if s.inRun then s
  else { s with pc := 0x200, exitCode := 0, fault := FaultRecord.clear, run := .running }

/-- `LOAD(image)`, refused in a run and for an image longer than 3584 bytes (15_interfaces.md R43). -/
def hostLoad (image : List Byte) (s : State) : State :=
  if s.inRun || decide (Config.maxImage < image.length) then s
  else s.setMem (writeBytes s.mem Config.origin image)

/-- `CONTINUE` takes a value; the fall to 0 ends a key wait at once (15_interfaces.md R44,
45_timer_key.md R195). -/
def hostSetContinue (level : Bool) (s : State) : State :=
  let t := { s with contIn := level }
  if level = false ∧ s.run = .waitKey then cancelWait t else t

/-- `EXT_TICK`, accepted only with `EXT_TIMER` = 1 and in a run (15_interfaces.md R47). -/
def hostExtTick (s : State) : State := if s.extTimer && s.inRun then tick s else s

/-- `KEY_EVENT(k)`, accepted only while `KEY_WAIT` = 1: `V[WAIT_REG] <- zext_8(k); RUN <- Running`, and the
cycle resumes at its step 6 (15_interfaces.md R49, 45_timer_key.md R194). -/
def hostKeyEvent (k : Nibble) (s : State) : State :=
  if s.run = .waitKey then poll ((s.setReg s.waitReg (BitVec.ofNat 8 k.val)).setRun .running) else s

/-- `EXT_TIMER` takes a value; a change during a run is refused (15_interfaces.md R45, R58). -/
def hostSetExtTimer (level : Bool) (s : State) : Outcome :=
  if s.inRun && (level != s.extTimer) then .refused .extTimerChangedDuringRun
  else .next { s with extTimer := level }

/-! ### The level outputs and the debug read port -/

/-- `RUN_STATE`, the code of `RUN` (10_state.md R22, 15_interfaces.md R56). -/
def runStateCode : RunState → Nat
  | .ready => 0
  | .running => 1
  | .waitKey => 2
  | .haltedNormal => 3
  | .haltedLoop => 4
  | .haltedExternal => 5
  | .haltedFault => 6

/-- `FAULT_KIND`, the code of `FAULT.kind` (10_state.md R24, 15_interfaces.md R56). -/
def faultKindCode : FaultKind → Nat
  | .none => 0
  | .decodeFailure => 1
  | .stackUnderflow => 2
  | .outOfBounds => 3
  | .stackOverflow => 4

/-- `KEY_WAIT`: 1 exactly while `RUN` = WaitKey (15_interfaces.md R49). -/
def keyWait (s : State) : Bool := s.run = .waitKey

/-- What the debug read port can be asked for (15_interfaces.md R55). -/
inductive DebugItem where
  | mem (a : Nat)
  | v (x : Reg)
  | i
  | pc
  | dt
  | st
  | sp
  | stack (k : Nat)
  | fb (row : Fin 32) (column : Fin 64)
deriving DecidableEq, Repr

/-- The cell `FB[y][x]` (10_state.md R21). -/
def Plane.cell (p : Plane) (y : Fin 32) (x : Fin 64) : Bool := p[y].getMsbD x.val

/-- The value an item has in a state. -/
def debugValue (s : State) : DebugItem → Nat
  | .mem a => (Memory.get s.mem a).toNat
  | .v x => (s.reg x).toNat
  | .i => s.i.toNat
  | .pc => s.pc.toNat
  | .dt => s.dt.toNat
  | .st => s.st.toNat
  | .sp => s.sp
  | .stack k => (s.slot k).toNat
  | .fb y x => (Plane.cell s.fb y x).toNat

/-- A read through the debug port: exact unless `RUN` is Running, where "any mixture" may be observed and
nothing is said (15_interfaces.md R55, 93_implementation_defined.md U21). -/
def debugRead (s : State) (item : DebugItem) : Option Nat :=
  if s.run = .running then none else some (debugValue s item)

end Sys2Proof.Machine
end

