-- ==== Sys2Proof/Machine/Operands.lean ====
section
/-! DEFINITION. The operand forms: registers by number, `I + k`, the registers `V0..Vx`, the decimal
digits of LDBC, the glyph address of LDF and the sprite bitmap of DRW. -/
namespace Sys2Proof.Machine

/-- The effective address of the `k`-th byte an instruction touches: the natural `I + k`, not masked
(43_index_memory.md R176). -/
def effAddr (s : State) (k : Nat) : Nat := s.i.toNat + k

/-- `[V[0], V[1], ..., V[x]]` (43_index_memory.md R174). -/
def regsUpTo (s : State) (x : Reg) : List Byte := s.v.toList.take (x.val + 1)

/-- A value of 8 bits as a 16-bit operand of an address sum (`zext_16`, 00_scope.md R6). -/
def zext16 (b : Byte) : Word := b.setWidth 16

/-- The 12-bit address `nnn` as a 16-bit value. -/
def addrWord (nnn : Addr) : Word := nnn.setWidth 16

/-- The digits `[v / 100, (v / 10) mod 10, v mod 10]` (43_index_memory.md R173). -/
def bcdDigits (b : Byte) : List Byte :=
  [BitVec.ofNat 8 (b.toNat / 100), BitVec.ofNat 8 (b.toNat / 10 % 10), BitVec.ofNat 8 (b.toNat % 10)]

/-- `0x1B0 + 5 * v`, before the mask of the write of `I` (43_index_memory.md R172). -/
def glyphAddr (b : Byte) : Word := BitVec.ofNat 16 (Config.fontBase + Config.glyphBytes * b.toNat)

/-- The pixels of one sprite row, most significant bit first (44_display.md R182). -/
def rowPixels (b : Byte) : List Bool := (List.range Config.spriteW).map fun c => b.getMsbD c

/-- The row-major bitmap of a sprite (44_display.md R182). -/
def bitmapOf (rows : List Byte) : List Bool := rows.flatMap rowPixels

end Sys2Proof.Machine
end

