-- ==== Sys2Proof/Machine/Flags.lean ====
section
/-! DEFINITION. What the flag-writing instructions put in VF, the 8-bit results beside it, and the two
orders in which result and flag are written (42_alu.md R150, R163). -/
namespace Sys2Proof.Machine

/-- A flag value: 1 or 0. -/
def flag (c : Bool) : Byte := if c then 1 else 0

/-- The carry of ADDV: 1 exactly when `p + q > 255` (42_alu.md R157, R163). -/
def carryOut (p q : Byte) : Byte := flag (decide (255 < p.toNat + q.toNat))

/-- The flag of SUB and SUBN: 1 exactly when minuend ≥ subtrahend (42_alu.md R158, R160, R163). -/
def notBorrow (minuend subtrahend : Byte) : Byte := flag (decide (subtrahend.toNat ≤ minuend.toNat))

/-- The bit SHR shifts out: old bit 0 (42_alu.md R159). -/
def lowBit (p : Byte) : Byte := flag (p.getLsbD 0)

/-- The bit SHL shifts out: old bit 7 (42_alu.md R161). -/
def highBit (p : Byte) : Byte := flag (p.getLsbD 7)

/-- `V[x] <- result; V[15] <- flag`: the flag stays when `x` = 15 (42_alu.md R150). -/
def resultThenFlag (x : Reg) (result f : Byte) (s : State) : State := (s.setReg x result).setReg vf f

/-- `V[15] <- flag; V[x] <- result`: the result stays when `x` = 15 (42_alu.md R150). -/
def flagThenResult (x : Reg) (result f : Byte) (s : State) : State := (s.setReg vf f).setReg x result

end Sys2Proof.Machine
end

