-- ==== Sys2Proof/Machine/Alu.lean ====
section
/-! DEFINITION. The register load, arithmetic, logic, shift and random instructions (42_alu.md). All
operands are read before any write (42_alu.md R150). -/
namespace Sys2Proof.Machine

/-- LD (42_alu.md R151). -/
def execLd (x : Reg) (kk : Byte) (s : State) : Outcome := .next (s.setReg x kk)

/-- ADD: `(vx + kk) & 0xFF`, no flag (42_alu.md R152). -/
def execAdd (x : Reg) (kk : Byte) (s : State) : Outcome := .next (s.setReg x (s.reg x + kk))

/-- LDV (42_alu.md R153). -/
def execLdv (x y : Reg) (s : State) : Outcome := .next (s.setReg x (s.reg y))

/-- OR (42_alu.md R154). -/
def execOr (x y : Reg) (s : State) : Outcome := .next (s.setReg x (s.reg x ||| s.reg y))

/-- AND (42_alu.md R155). -/
def execAnd (x y : Reg) (s : State) : Outcome := .next (s.setReg x (s.reg x &&& s.reg y))

/-- XOR (42_alu.md R156). -/
def execXor (x y : Reg) (s : State) : Outcome := .next (s.setReg x (s.reg x ^^^ s.reg y))

/-- ADDV: result, then carry (42_alu.md R157). -/
def execAddv (x y : Reg) (s : State) : Outcome :=
  .next (resultThenFlag x (s.reg x + s.reg y) (carryOut (s.reg x) (s.reg y)) s)

/-- SUB: result, then not-borrow (42_alu.md R158). -/
def execSub (x y : Reg) (s : State) : Outcome :=
  .next (resultThenFlag x (s.reg x - s.reg y) (notBorrow (s.reg x) (s.reg y)) s)

/-- SHR: flag, then result; `y` is ignored (42_alu.md R159). -/
def execShr (x _y : Reg) (s : State) : Outcome :=
  .next (flagThenResult x (s.reg x >>> 1) (lowBit (s.reg x)) s)

/-- SUBN: result, then not-borrow (42_alu.md R160). -/
def execSubn (x y : Reg) (s : State) : Outcome :=
  .next (resultThenFlag x (s.reg y - s.reg x) (notBorrow (s.reg y) (s.reg x)) s)

/-- SHL: flag, then result; `y` is ignored (42_alu.md R161). -/
def execShl (x _y : Reg) (s : State) : Outcome :=
  .next (flagThenResult x (s.reg x <<< 1) (highBit (s.reg x)) s)

/-- RND: one sample of `RND_IN` under the mask `kk` (42_alu.md R162). -/
def execRnd (x : Reg) (kk : Byte) (s : State) : Outcome :=
  .next ((sampleRnd s).2.setReg x ((sampleRnd s).1 &&& kk))

end Sys2Proof.Machine
end

