-- ==== Sys2Proof/Machine/Debug.lean ====
section
/-! DEFINITION. The debug exit (46_debug.md). -/
namespace Sys2Proof.Machine

/-- ASSERT: `EXIT_CODE <- I; RUN <- Halted-Normal` (46_debug.md R200). -/
def execAssert (s : State) : Outcome := .next { s with exitCode := s.i, run := .haltedNormal }

end Sys2Proof.Machine
end

