-- ==== Sys2Proof/Machine/Blitter.lean ====
section
/-! DEFINITION. The display plane's operations: clearing, and the collision-detecting XOR blitter of
44_display.md R183. -/
namespace Sys2Proof.Machine

/-- All cells 0 (44_display.md R181). -/
def Plane.clear : Plane := Vector.replicate 32 0

/-- `FB[y][x] <- FB[y][x] XOR 1` (44_display.md R183). -/
def Plane.toggle (p : Plane) (y : Fin 32) (x : Fin 64) : Plane :=
  p.set y (p[y] ^^^ BitVec.twoPow 64 (63 - x.val))

/-- The pixels `(r, c)` of a sprite of `h` rows, in the order of the loops of 44_display.md R183. -/
def spritePixels (h : Nat) : List (Nat × Nat) :=
  (List.range h).flatMap fun r => (List.range Config.spriteW).map fun c => (r, c)

/-- The row a sprite row lands on: vertical wraparound (44_display.md R183). -/
def pixelRow (req : DrawReq) (r : Nat) : Fin 32 := Fin.ofNat 32 (req.y.toNat + r)

/-- The column a sprite column lands on: horizontal wraparound (44_display.md R183). -/
def pixelColumn (req : DrawReq) (c : Nat) : Fin 64 := Fin.ofNat 64 (req.x.toNat + c)

/-- The bitmap's bit for the pixel `(r, c)`, row-major (44_display.md R182). -/
def spriteBit (req : DrawReq) (r c : Nat) : Bool := req.bitmap.getD (r * Config.spriteW + c) false

/-- One turn of the loops of 44_display.md R183, on the plane and `collided`. -/
def blitPixel (req : DrawReq) (acc : Plane × Bool) (rc : Nat × Nat) : Plane × Bool :=
  if spriteBit req rc.1 rc.2 then
    (Plane.toggle acc.1 (pixelRow req rc.1) (pixelColumn req rc.2),
     acc.2 || Plane.cell acc.1 (pixelRow req rc.1) (pixelColumn req rc.2))
  else acc

/-- `Blit(req)`: the plane after, and whether any pixel went from set to unset (44_display.md R183). -/
def blit (req : DrawReq) (p : Plane) : Plane × Bool :=
  (spritePixels req.h.val).foldl (blitPixel req) (p, false)

end Sys2Proof.Machine
end

