-- ==== Sys2Proof/Machine/Display.lean ====
section
/-! DEFINITION. The display instructions (44_display.md). -/
namespace Sys2Proof.Machine

/-- CLS: every cell 0, `pulse CLEAR` (44_display.md R181). -/
def execCls (s : State) : Outcome := .next ((s.setFb Plane.clear).pulse .clear)

/-- The draw request of DRW, from the registers captured and the rows read (44_display.md R182). -/
def drawReqOf (x y : Reg) (n : Nibble) (rows : List Byte) (s : State) : DrawReq :=
  ⟨s.reg x, s.reg y, n, bitmapOf rows⟩

/-- The rest of DRW once its request is made: `pulse DRAW_REQ`, blit, VF (44_display.md R182). -/
def draw (req : DrawReq) (s : State) : State :=
  ((s.pulse (.drawReq req)).setFb (blit req s.fb).1).setReg vf (flag (blit req s.fb).2)

/-- DRW (44_display.md R182). -/
def execDrw (x y : Reg) (n : Nibble) (s : State) : Outcome :=
  orRaise (encode (.drw x y n)) s (memRead s.mem (effAddr s 0) n.val) fun rows =>
    draw (drawReqOf x y n rows s) s

end Sys2Proof.Machine
end

