-- ==== Sys2Proof/Machine/Flow.lean ====
section
/-! DEFINITION. The control-transfer instructions (40_flow.md). Each begins with `PC` = `a + 2`. -/
namespace Sys2Proof.Machine

/-- SYS: no operation (40_flow.md R130). -/
def execSys (_nnn : Addr) (s : State) : Outcome := .next s

/-- RET: `PC <- Pop()` (40_flow.md R131). -/
def execRet (s : State) : Outcome := orRaise (encode .ret) s (pop s) fun r => r.2.setPc r.1

/-- JP: `PC <- nnn; if nnn = a then RUN <- Halted-Loop` (40_flow.md R132). -/
def execJp (nnn : Addr) (s : State) : Outcome :=
  .next ((s.setPc (addrWord nnn)).setRun
    (if addrWord nnn = s.instrAddr then .haltedLoop else s.run))

/-- CALL: `Push(PC); PC <- nnn` (40_flow.md R133). -/
def execCall (nnn : Addr) (s : State) : Outcome :=
  orRaise (encode (.call nnn)) s (push s.pc s) fun t => t.setPc (addrWord nnn)

/-- JPV0: `PC <- nnn + V[0]`, not masked, without the self-jump guard (40_flow.md R134). -/
def execJpv0 (nnn : Addr) (s : State) : Outcome :=
  .next (s.setPc (addrWord nnn + zext16 (s.reg 0)))

end Sys2Proof.Machine
end

