-- ==== Sys2Proof/Machine/Index.lean ====
section
/-! DEFINITION. The index-register and memory instructions (43_index_memory.md). -/
namespace Sys2Proof.Machine

/-- LDI: `I <- nnn` (43_index_memory.md R170). -/
def execLdi (nnn : Addr) (s : State) : Outcome := .next (s.setI (addrWord nnn))

/-- ADDI: `I <- (I + vx) & 0x0FFF`, no flag (43_index_memory.md R171). -/
def execAddi (x : Reg) (s : State) : Outcome := .next (s.setI (s.i + zext16 (s.reg x)))

/-- LDF: `I <- (0x1B0 + 5 * vx) & 0x0FFF` (43_index_memory.md R172). -/
def execLdf (x : Reg) (s : State) : Outcome := .next (s.setI (glyphAddr (s.reg x)))

/-- LDBC: three decimal digits at `I` (43_index_memory.md R173). -/
def execLdbc (x : Reg) (s : State) : Outcome :=
  orRaise (encode (.ldbc x)) s (memWrite s.mem (effAddr s 0) (bcdDigits (s.reg x))) fun m => s.setMem m

/-- LDMW: `V[0..x]` to memory at `I`, then `I <- (I + x) & 0x0FFF` (43_index_memory.md R174). -/
def execLdmw (x : Reg) (s : State) : Outcome :=
  orRaise (encode (.ldmw x)) s (memWrite s.mem (effAddr s 0) (regsUpTo s x)) fun m =>
    (s.setMem m).setI (s.i + BitVec.ofNat 16 x.val)

/-- LDMR: memory at `I` to `V[0..x]`, then `I <- (I + x) & 0x0FFF` (43_index_memory.md R175). -/
def execLdmr (x : Reg) (s : State) : Outcome :=
  orRaise (encode (.ldmr x)) s (memRead s.mem (effAddr s 0) (x.val + 1)) fun bs =>
    (s.loadRegs bs).setI (s.i + BitVec.ofNat 16 x.val)

end Sys2Proof.Machine
end

