-- ==== Sys2Proof/Machine/Skip.lean ====
section
/-! DEFINITION. The skip instructions (41_skip.md). -/
namespace Sys2Proof.Machine

/-- SE (41_skip.md R140). -/
def execSe (x : Reg) (kk : Byte) (s : State) : Outcome := .next (skipIf (s.reg x == kk) s)

/-- SNE (41_skip.md R141). -/
def execSne (x : Reg) (kk : Byte) (s : State) : Outcome := .next (skipIf (s.reg x != kk) s)

/-- SEV (41_skip.md R142). -/
def execSev (x y : Reg) (s : State) : Outcome := .next (skipIf (s.reg x == s.reg y) s)

/-- SNEV (41_skip.md R143). -/
def execSnev (x y : Reg) (s : State) : Outcome := .next (skipIf (s.reg x != s.reg y) s)

/-- SKP: `pulse KEY_QUERY(V[x])`, skip if `KEY_DOWN` = 1 (41_skip.md R144). -/
def execSkp (x : Reg) (s : State) : Outcome :=
  .next (skipIf (keyAnswer s (s.reg x)) (s.pulse (.keyQuery (s.reg x))))

/-- SKNP: `pulse KEY_QUERY(V[x])`, skip if `KEY_DOWN` = 0 (41_skip.md R145). -/
def execSknp (x : Reg) (s : State) : Outcome :=
  .next (skipIf (!keyAnswer s (s.reg x)) (s.pulse (.keyQuery (s.reg x))))

end Sys2Proof.Machine
end

