-- ==== Sys2Proof/Machine/TimerKey.lean ====
section
/-! DEFINITION. The timer and key-wait instructions (45_timer_key.md). -/
namespace Sys2Proof.Machine

/-- LDDT: `V[x] <- DT` (45_timer_key.md R191). -/
def execLddt (x : Reg) (s : State) : Outcome := .next (s.setReg x s.dt)

/-- STDT: `DT <- vx` (45_timer_key.md R192). -/
def execStdt (x : Reg) (s : State) : Outcome := .next (s.setDt (s.reg x))

/-- STST: `ST <- vx` (45_timer_key.md R193). -/
def execStst (x : Reg) (s : State) : Outcome := .next (s.setSt (s.reg x))

/-- LDKP, part 1: `WAIT_REG <- x; RUN <- WaitKey` (45_timer_key.md R194). Part 2 is the host's
`KEY_EVENT`, `hostKeyEvent`. -/
def execLdkp (x : Reg) (s : State) : Outcome := .next { s with waitReg := x, run := .waitKey }

end Sys2Proof.Machine
end

