-- ==== Sys2Proof/Machine/Cycle.lean ====
section
/-! DEFINITION. The instruction cycle (35_instruction_cycle.md R113), what the engine does in each run
state, and how the host's events fall between the engine's steps (35_instruction_cycle.md R110). -/
namespace Sys2Proof.Machine

/-- Step 6 after an execution that went on. -/
def thenPoll : Outcome → Outcome
  | .next s => .next (poll s)
  | .fault f => .fault f
  | .refused r => .refused r

/-- Step 5: an undecodable word raises DecodeFailure, a decoded instruction is executed; then step 6
(35_instruction_cycle.md R117, R118). -/
def executeWord (op : Word) (s : State) : Outcome :=
  match decodeOp op with
  | .ok i => thenPoll (exec i s)
  | .error _ => .next (raise .decodeFailure op s)

/-- The condition a fetch raised: `FAULT.opcode` is 0 and `PC` stays `a` (60_exceptions.md R216). -/
def fetchFault (f : Fault) (s : State) : State := raise f 0 s

/-- Steps 2 to 6 of the cycle (35_instruction_cycle.md R113). -/
def fetchAndExecute (s : State) : Outcome :=
  match fetch s with
  | .ok op => executeWord op (advance (notify s))
  | .error f => .next (fetchFault f s)

/-- One cycle (35_instruction_cycle.md R113). -/
def cycle (s : State) : Outcome := fetchAndExecute (timerService s)

/-- What the engine does when it has the step: a cycle while Running, the watch on `CONTINUE` in a key
wait, nothing in Ready and the halted states (35_instruction_cycle.md R111, R112). -/
def engineStep (s : State) : Outcome :=
  match s.run with
  | .running => cycle s
  | .waitKey => .next (poll s)
  | .ready => .next s
  | .haltedNormal => .next s
  | .haltedLoop => .next s
  | .haltedExternal => .next s
  | .haltedFault => .next s

/-- What a host event does (15_interfaces.md); `pass` leaves the step to the engine. -/
def hostStep (e : HostEvent) (s : State) : Outcome :=
  match e with
  | .pass => engineStep s
  | .reset => .next (hostReset s)
  | .start => .next (hostStart s)
  | .load image => .next (hostLoad image s)
  | .setContinue level => .next (hostSetContinue level s)
  | .setExtTimer level => hostSetExtTimer level s
  | .setTickDue level => .next { s with tickDue := level }
  | .setKeyDown answers => .next { s with keyDown := answers }
  | .extTick => .next (hostExtTick s)
  | .keyEvent k => .next (hostKeyEvent k s)
  | .keyEventAndStop k =>
    .next (if s.run = .waitKey then hostKeyEvent k { s with contIn := false }
      else { s with contIn := false })

/-- One step: the host's next event, or the engine's step when the host does nothing more. The pulses of
the step before are gone. -/
def machineStep (s : State) : Outcome :=
  match s.host with
  | [] => engineStep { s with pulses := [] }
  | e :: rest => hostStep e { s with pulses := [], host := rest }

/-- The address the placed instruction is stored at: `PC` where two bytes can be fetched from it, else
the origin. -/
def fetchAddr (s : State) : Word := if s.pc.toNat + 1 < Config.memSize then s.pc else 0x200

/-- A state whose very next step fetches and runs the given opcode: it is stored at the fetch address,
the engine is Running and no host event comes first (log entry 4). -/
def placeWord (s : State) (op : Word) : State :=
  { s with
    mem := writeBytes s.mem (fetchAddr s).toNat [highByte op, lowByte op]
    pc := fetchAddr s
    run := .running
    host := [] }

end Sys2Proof.Machine
end

