-- ==== Sys2Proof/Machine/Step.lean ====
section
/-! DEFINITION. One step of the machine, and the placing of an instruction where it fetches next. -/
namespace Sys2Proof.Machine

/-- One step of the machine (35_instruction_cycle.md R110). -/
def step (s : State) : Host.Outcome State Fault Refusal := machineStep s

/-- The state with the table word `w`, cut to `nbits` bits, stored where the next step fetches. -/
def State.withFetchWord (s : State) (nbits w : Nat) : State :=
  placeWord s (BitVec.ofNat 16 (w % 2 ^ nbits))

end Sys2Proof.Machine
end

