-- ==== Sys2Proof/Safety.lean ====
section
/-! DEFINITION. What counts as a safe run: the invariant of the machine, and the terms the statements
about it are written in. -/
namespace Sys2Proof.Machine

/-- The call stack is sound: its valid entries are listed, it fits its depth, and every slot holds an
address that a CALL can push, at most 0x1000 (10_state.md R19, R25). -/
def stackSound (s : State) : Bool :=
  decide (s.sp ≤ s.stack.length)
    && s.stackDepth.all (fun depth => decide (s.stack.length ≤ depth))
    && s.stack.all fun w => decide (w.toNat ≤ 0x1000)

/-- The invariant of the machine: memory is in canonical form; `I` is a valid address (10_state.md R14);
`PC` is at most 0x10FE (10_state.md R15); the call stack is sound; a fault is recorded exactly in
Halted-Fault (10_state.md R24); an exit code other than 0 only in Halted-Normal (10_state.md R23); and a
key wait stands only while `CONTINUE` = 1 (45_timer_key.md R195). -/
abbrev State.Inv (s : State) : Prop :=
  Memory.wf s.mem = true ∧ s.i.toNat < 0x1000 ∧ s.pc.toNat ≤ 0x10FE ∧ stackSound s = true
    ∧ (s.fault.kind ≠ .none ↔ s.run = .haltedFault)
    ∧ (s.exitCode ≠ 0 → s.run = .haltedNormal)
    ∧ (s.run = .waitKey → s.contIn = true)

/-- `RUN` is Ready or one of the four halted states: no run is in progress. -/
def RunState.idle (r : RunState) : Bool := !(r = .running || r = .waitKey)

/-- The host leaves the next step to the engine, and `rest` is what it does afterwards. -/
def leavesStep (s : State) (rest : List HostEvent) : Prop :=
  (s.host = [] ∧ rest = []) ∨ s.host = .pass :: rest

/-- The state at the start of a step that is the engine's: the pulses of the step before are gone. -/
def stepStart (s : State) (rest : List HostEvent) : State := { s with pulses := [], host := rest }

/-- The state an instruction begins in, after steps 1, 3 and 4 of the cycle
(35_instruction_cycle.md R113). -/
def readyToExecute (s : State) (rest : List HostEvent) : State :=
  advance (notify (timerService (stepStart s rest)))

/-- The opcode with the value `w` decodes to `i`. -/
def hasWord (i : Instr) (w : Nat) : Prop := decodeOp (BitVec.ofNat 16 w) = .ok i

/-- Every register not listed holds in `t` what it holds in `s`. -/
def keepsOtherRegs (s t : State) (written : List Reg) : Prop :=
  ∀ r : Reg, r ∉ written → t.reg r = s.reg r

/-- Every byte of memory outside the `n` bytes from `lo` reads in `t` as it does in `s`. -/
def keepsOtherBytes (s t : State) (lo n : Nat) : Prop :=
  ∀ a : Nat, (a < lo ∨ lo + n ≤ a) → Memory.get t.mem a = Memory.get s.mem a

/-- The state a fatal condition of an instruction leaves: only `FAULT` and `RUN` change
(60_exceptions.md R214). -/
def faulted (s : State) (kind : FaultKind) (op addr : Word) : State :=
  { s with fault := ⟨kind, op, addr⟩, run := .haltedFault }

/-- The words that are no instruction, as 30_encoding.md R100 lists them. -/
def undecodable (op : Word) : Prop :=
  op = 0x0000
    ∨ ((nib0 op = 0x5 ∨ nib0 op = 0x9) ∧ nib3 op ≠ 0)
    ∨ (nib0 op = 0x8 ∧ nib3 op ∈ [0x8, 0x9, 0xA, 0xB, 0xC, 0xD, 0xF])
    ∨ (nib0 op = 0xE ∧ fieldKK op ∉ [0x9E, 0xA1])
    ∨ (nib0 op = 0xF ∧ op ≠ 0xF999
        ∧ fieldKK op ∉ [0x07, 0x0A, 0x15, 0x18, 0x1E, 0x29, 0x33, 0x55, 0x65])

/-- Some position of the template is a literal that differs from its nibble (30_encoding.md R83). -/
def literalDiffers (t : Template) (op : Word) : Prop :=
  ∃ p ∈ t.chars.zip (nibbles op), ∃ v, litVal p.1 = some v ∧ v ≠ p.2.val

/-- The V registers an instruction may write: the list of 10_state.md R13. LDKP writes its register when
the key arrives, not when it executes. -/
def regsWritten : Instr → List Reg
  | .cls => []
  | .ret => []
  | .sys _ => []
  | .jp _ => []
  | .call _ => []
  | .se _ _ => []
  | .sne _ _ => []
  | .sev _ _ => []
  | .ld x _ => [x]
  | .add x _ => [x]
  | .ldv x _ => [x]
  | .or x _ => [x]
  | .and x _ => [x]
  | .xor x _ => [x]
  | .addv x _ => [x, vf]
  | .sub x _ => [x, vf]
  | .shr x _ => [x, vf]
  | .subn x _ => [x, vf]
  | .shl x _ => [x, vf]
  | .snev _ _ => []
  | .ldi _ => []
  | .jpv0 _ => []
  | .rnd x _ => [x]
  | .drw _ _ _ => [vf]
  | .skp _ => []
  | .sknp _ => []
  | .lddt x => [x]
  | .ldkp _ => []
  | .stdt _ => []
  | .stst _ => []
  | .addi _ => []
  | .ldf _ => []
  | .ldbc _ => []
  | .ldmw _ => []
  | .ldmr x => (List.finRange 16).filter fun r => decide (r ≤ x)
  | .assert => []

/-- What an instruction at the address `a` leaves in `PC` when it does not fault: the list of
10_state.md R16. -/
def pcAfter (a : Word) (i : Instr) (s : State) : Word :=
  match i with
  | .cls => a + 2
  | .ret => s.slot (s.sp - 1)
  | .sys _ => a + 2
  | .jp nnn => BitVec.ofNat 16 nnn.toNat
  | .call nnn => BitVec.ofNat 16 nnn.toNat
  | .se x kk => if s.reg x = kk then a + 4 else a + 2
  | .sne x kk => if s.reg x = kk then a + 2 else a + 4
  | .sev x y => if s.reg x = s.reg y then a + 4 else a + 2
  | .ld _ _ => a + 2
  | .add _ _ => a + 2
  | .ldv _ _ => a + 2
  | .or _ _ => a + 2
  | .and _ _ => a + 2
  | .xor _ _ => a + 2
  | .addv _ _ => a + 2
  | .sub _ _ => a + 2
  | .shr _ _ => a + 2
  | .subn _ _ => a + 2
  | .shl _ _ => a + 2
  | .snev x y => if s.reg x = s.reg y then a + 2 else a + 4
  | .ldi _ => a + 2
  | .jpv0 nnn => BitVec.ofNat 16 (nnn.toNat + (s.reg 0).toNat)
  | .rnd _ _ => a + 2
  | .drw _ _ _ => a + 2
  | .skp x => if s.keyDown.getLsbD (s.reg x).toNat then a + 4 else a + 2
  | .sknp x => if s.keyDown.getLsbD (s.reg x).toNat then a + 2 else a + 4
  | .lddt _ => a + 2
  | .ldkp _ => a + 2
  | .stdt _ => a + 2
  | .stst _ => a + 2
  | .addi _ => a + 2
  | .ldf _ => a + 2
  | .ldbc _ => a + 2
  | .ldmw _ => a + 2
  | .ldmr _ => a + 2
  | .assert => a + 2

/-- The pixel `(r, c)` of a request is set and lands on the cell `(y, x)` (44_display.md R183). -/
def pixelHits (req : DrawReq) (y : Fin 32) (x : Fin 64) (r c : Nat) : Prop :=
  r < req.h.val ∧ c < 8 ∧ spriteBit req r c = true ∧ (req.y.toNat + r) % 32 = y.val
    ∧ (req.x.toNat + c) % 64 = x.val

end Sys2Proof.Machine
end

