-- ==== Sys2Proof/Certificates/Slice0/Obligations.lean ====
section
/-! DEFINITION. The statements for the provers. An instruction's statement is about `exec`, which runs with
`PC` = `a + 2` (35_instruction_cycle.md R116); `StepRunsTheDecodedInstruction` carries it to a step. -/

open Sys2Proof Sys2Proof.Machine

/-! ### Encoding -/

/-- Words written out from the spec's encodings decode to their instructions (vectors S5, S6, E2 to E28 of
95_test_vectors.md). -/
def Obligations.DecodesWordsWrittenOut : Prop :=
  decodeOp 0x00E0 = .ok .cls ∧ decodeOp 0x00EE = .ok .ret ∧ decodeOp 0x00E1 = .ok (.sys 0x0E1)
    ∧ decodeOp 0x1234 = .ok (.jp 0x234) ∧ decodeOp 0x3A7F = .ok (.se 10 0x7F)
    ∧ decodeOp 0x5120 = .ok (.sev 1 2) ∧ decodeOp 0x8AB4 = .ok (.addv 10 11)
    ∧ decodeOp 0xA001 = .ok (.ldi 0x001) ∧ decodeOp 0xC3F0 = .ok (.rnd 3 0xF0)
    ∧ decodeOp 0xD7A5 = .ok (.drw 7 10 5) ∧ decodeOp 0xE19E = .ok (.skp 1)
    ∧ decodeOp 0xF955 = .ok (.ldmw 9) ∧ decodeOp 0xF999 = .ok .assert
    ∧ decodeOp 0x0000 = .error .blank ∧ decodeOp 0xF899 = .error .noTemplate

/-- Decoding the bytes of a well-formed instruction, whatever follows them, gives it back and leaves what
follows. -/
def Obligations.DecodeOfEncodeIsTheInstruction : Prop :=
  ∀ (i : Instr) (rest : List Byte), i.wellFormed = true →
    decodeBytes (encodeBytes i ++ rest) = .ok (i, rest)

/-- A word that decodes is the encoding of what it decodes to, and that is well-formed: no bit of a word
is dropped, and each word has one meaning. -/
def Obligations.EncodeOfDecodeIsTheWord : Prop :=
  ∀ (op : Word) (i : Instr), decodeOp op = .ok i → encode i = op ∧ i.wellFormed = true

/-- The template matcher of R85 is the mask-and-match decoder of R89 (c), on every word; at most one of the
mask rows, which hold neither CLS nor RET, covers a word. -/
def Obligations.MatcherIsMaskAndMatch : Prop :=
  ∀ op : Word, (decodeOp op).toOption = maskDecode op
    ∧ (maskRows.filter fun r => r.covers op).length ≤ 1

/-- R89 (a) and (b): two different templates that match one word have different scores, and the word is
0x00E0 or 0x00EE. -/
def Obligations.TemplatesOverlapOnlyAtClsAndRet : Prop :=
  ∀ (op : Word) (r r' : Row), r ∈ templateRows → r' ∈ templateRows → r.template ≠ r'.template →
    1 ≤ score r.template op → 1 ≤ score r'.template op →
      score r.template op ≠ score r'.template op ∧ (op = 0x00E0 ∨ op = 0x00EE)

/-- The undecodable words are exactly those 30_encoding.md lists. -/
def Obligations.UndecodableWordsAreExactlyThose : Prop :=
  ∀ op : Word, (∃ e, decodeOp op = .error e) ↔ undecodable op

/-- `getArgument` gives each argument its bit field of the opcode, and 0 for a letter the template lacks. -/
def Obligations.ArgumentsAreBitFields : Prop :=
  ∀ (op : Word) (r : Row), r ∈ templateRows →
    getArgument r.template op 'x' = (if 'x' ∈ r.template.chars then op.toNat / 256 % 16 else 0)
      ∧ getArgument r.template op 'y' = (if 'y' ∈ r.template.chars then op.toNat / 16 % 16 else 0)
      ∧ getArgument r.template op 'k' = (if 'k' ∈ r.template.chars then op.toNat % 256 else 0)
      ∧ getArgument r.template op 'n' =
          (if 'n' ∈ r.template.chars then
            (if r.template.c0 = 'D' then op.toNat % 16 else op.toNat % 4096) else 0)
      ∧ ∀ letter, letter ∉ r.template.chars → getArgument r.template op letter = 0

/-- The score of a template: 0 when some literal differs from its nibble, else the number of its literals,
whatever the opcode; that number is 1 to 4 for every template of the table. -/
def Obligations.ScoreIsZeroOrTheLiteralCount : Prop :=
  (∀ (t : Template) (op : Word),
    (literalDiffers t op → score t op = 0)
      ∧ (¬literalDiffers t op → score t op = literalCount t))
    ∧ ∀ r ∈ templateRows, 1 ≤ literalCount r.template ∧ literalCount r.template ≤ 4

/-! ### The primitives -/

/-- `MemRead`: the bytes of the span, lowest address first, or OutOfBounds with the lowest invalid address.
That the whole span is checked first is the spec's decision D16. -/
def Obligations.MemReadGivesTheSpanOrFaults : Prop :=
  ∀ (m : Memory) (addr n : Nat),
    ((n = 0 ∨ addr + n ≤ 4096) →
      ∃ bs, memRead m addr n = .ok bs ∧ bs.length = n
        ∧ ∀ k, k < n → bs[k]? = some (Memory.get m (addr + k)))
    ∧ (¬(n = 0 ∨ addr + n ≤ 4096) → memRead m addr n = .error (.outOfBounds (max addr 4096)))

/-- `MemWrite`: the bytes stand at their addresses and every other address is unchanged, the canonical
form is kept; or OutOfBounds and nothing is written. The check before any byte is the spec's decision D16. -/
def Obligations.MemWriteWritesExactlyTheSpan : Prop :=
  ∀ (m : Memory) (addr : Nat) (bs : List Byte), Memory.wf m = true →
    ((bs = [] ∨ addr + bs.length ≤ 4096) →
      ∃ m', memWrite m addr bs = .ok m' ∧ Memory.wf m' = true
        ∧ (∀ k, k < bs.length → some (Memory.get m' (addr + k)) = bs[k]?)
        ∧ (∀ a, (a < addr ∨ addr + bs.length ≤ a) → Memory.get m' a = Memory.get m a))
    ∧ (¬(bs = [] ∨ addr + bs.length ≤ 4096) →
        memWrite m addr bs = .error (.outOfBounds (max addr 4096)))

/-- The call stack is last in, first out: what is pushed on a stack that is not full comes back, the valid
entries below it are unchanged; a full stack and an empty one raise. The fault of a full stack is the
spec's decision D9. -/
def Obligations.StackIsLastInFirstOut : Prop :=
  ∀ (s : State) (w : Word),
    (s.stackDepth = some s.sp → push w s = .error .stackOverflow)
    ∧ (s.sp = 0 → pop s = .error .stackUnderflow)
    ∧ (s.stackFull = false →
        ∃ t, push w s = .ok t ∧ t.sp = s.sp + 1 ∧ t.slot s.sp = w ∧ t = { s with stack := t.stack, sp := t.sp }
          ∧ (∀ k, k ≠ s.sp → t.slot k = s.slot k)
          ∧ pop t = .ok (w, { t with sp := s.sp }))

/-- A tick lowers each timer by one unless it is 0, beeps exactly when the sound timer was non-zero, and
changes nothing else. That "just nonzero" is read before the decrement is the spec's decision D18. -/
def Obligations.TickCountsDownAndBeeps : Prop :=
  ∀ s : State,
    (tick s).dt.toNat = s.dt.toNat - 1 ∧ (tick s).st.toNat = s.st.toNat - 1
      ∧ (s.st = 0 → (tick s).pulses = s.pulses)
      ∧ (s.st ≠ 0 → (tick s).pulses = s.pulses ++ [.beep])
      ∧ tick s = { s with dt := (tick s).dt, st := (tick s).st, pulses := (tick s).pulses }

/-! ### The cycle -/

/-- When the bytes at `PC` decode to an instruction and the engine has the step, the step is `exec` of it,
in the state after the timer service, the notification and the advance of `PC` by 2, followed by the
continue poll; and what steps 1, 3 and 4 do to that state. -/
def Obligations.StepRunsTheDecodedInstruction : Prop :=
  ∀ (s t : State) (rest : List HostEvent) (i : Instr),
    s.run = .running → leavesStep s rest → s.pc.toNat + 1 < 4096 →
    decodeOp (opcodeOf (Memory.get s.mem s.pc.toNat) (Memory.get s.mem (s.pc.toNat + 1))) = .ok i →
    exec i (readyToExecute s rest) = .next t →
      step s = .next (poll t)
        ∧ (readyToExecute s rest).pc = s.pc + 2
        ∧ ((s.extTimer = true ∨ s.tickDue = false) →
            readyToExecute s rest = { s with
              pc := s.pc + 2, host := rest, pulses := [.dbgAddr s.pc] })
        ∧ (s.extTimer = false → s.tickDue = true →
            readyToExecute s rest = { s with
              pc := s.pc + 2, host := rest, dt := (tick s).dt, st := (tick s).st,
              pulses := beeps s ++ [.tickAck, .dbgAddr s.pc] })

/-- The fetch reads the two bytes at `PC`, big-endian; at 0xFFF and above the step takes OutOfBounds with
opcode 0 and the lowest invalid address, `PC` stays, and there is no notification. -/
def Obligations.FetchReadsTwoBytesOrFaults : Prop :=
  ∀ (s : State) (rest : List HostEvent), s.run = .running → leavesStep s rest →
    (s.pc.toNat < 0xFFF →
      fetch s = .ok (opcodeOf (Memory.get s.mem s.pc.toNat) (Memory.get s.mem (s.pc.toNat + 1))))
    ∧ (0xFFF ≤ s.pc.toNat →
        step s = .next (faulted (timerService (stepStart s rest)) .outOfBounds 0
          (BitVec.ofNat 16 (max s.pc.toNat 0x1000)))
        ∧ (timerService (stepStart s rest)).pc = s.pc
        ∧ Pulse.dbgAddr s.pc ∉ (timerService (stepStart s rest)).pulses)

/-- An undecodable word is fatal: DecodeFailure with the word and its address, `PC` already advanced, the
notification made, nothing else changed. -/
def Obligations.UndecodableWordTakesDecodeFailure : Prop :=
  ∀ (s : State) (rest : List HostEvent) (op : Word),
    s.run = .running → leavesStep s rest → s.pc.toNat + 1 < 4096 →
    op = opcodeOf (Memory.get s.mem s.pc.toNat) (Memory.get s.mem (s.pc.toNat + 1)) → undecodable op →
      step s = .next (faulted (readyToExecute s rest) .decodeFailure op s.pc)
        ∧ (readyToExecute s rest).pc = s.pc + 2
        ∧ Pulse.dbgAddr s.pc ∈ (readyToExecute s rest).pulses

/-- The poll after an instruction ends a run that is still Running when `CONTINUE` is 0 and changes nothing
else; it leaves a halted state as it is, whatever `CONTINUE` is. That it comes last is the spec's decision
D19. A key wait with `CONTINUE` = 0, so the one an LDKP has just begun, it ends Halted-External: nothing is
said of the waiting register's new value (D20), every other register and everything else is as it was. That
this happens in the LDKP's own step is the model's reading of "at once" (log entry 9). -/
def Obligations.ContinuePollEndsTheRun : Prop :=
  ∀ s : State,
    (s.run = .running → s.contIn = false → poll s = { s with run := .haltedExternal })
      ∧ (s.contIn = true → poll s = s)
      ∧ (s.run.idle = true → poll s = s)
      ∧ (s.run = .waitKey → s.contIn = false →
          keepsOtherRegs s (poll s) [s.waitReg]
            ∧ poll s = { s with
                v := (poll s).v, run := .haltedExternal, freeCtr := (poll s).freeCtr })
      ∧ (∀ x : Reg, s.contIn = false →
          ∃ t, thenPoll (exec (.ldkp x) s) = .next t ∧ keepsOtherRegs s t [x]
            ∧ t = { s with v := t.v, waitReg := x, run := .haltedExternal, freeCtr := t.freeCtr })

/-- No transition of `RUN` exists that the table of 35_instruction_cycle.md R111 does not have: every
change of `RUN` in a step has its event. (A step that executes LDKP with `CONTINUE` = 0 passes through
WaitKey, log entry 9.) -/
def Obligations.RunStateChangesOnlyByTheTable : Prop :=
  ∀ s t : State, step s = .next t → t.run ≠ s.run →
    (s.run.idle = true ∧ t.run = .ready ∧ ∃ rest, s.host = .reset :: rest)
    ∨ (s.run.idle = true ∧ t.run = .running ∧ ∃ rest, s.host = .start :: rest)
    ∨ (s.run = .waitKey ∧ t.run = .running ∧ ∃ k rest, s.host = .keyEvent k :: rest)
    ∨ (s.run = .waitKey ∧ t.run = .haltedExternal ∧ t.contIn = false)
    ∨ (s.run = .running ∧ (∃ rest, leavesStep s rest)
        ∧ ((t.run = .haltedFault ∧ t.fault.kind ≠ .none)
          ∨ (t.run = .haltedExternal ∧ s.contIn = false)
          ∨ (s.pc.toNat + 1 < 4096 ∧ ∃ i,
              decodeOp (opcodeOf (Memory.get s.mem s.pc.toNat) (Memory.get s.mem (s.pc.toNat + 1))) = .ok i
                ∧ ((t.run = .waitKey ∧ ∃ x, i = .ldkp x)
                  ∨ (t.run = .haltedNormal ∧ i = .assert)
                  ∨ (t.run = .haltedLoop ∧ ∃ nnn : Addr, i = .jp nnn ∧ nnn.toNat = s.pc.toNat)))))

/-- Every step keeps the invariant of the machine, whatever the host does. -/
def Obligations.StepKeepsTheInvariant : Prop :=
  ∀ s t : State, s.Inv → step s = .next t → t.Inv

/-- The state after reset meets the invariant. -/
def Obligations.ResetMeetsTheInvariant : Prop := State.reset.Inv

/-- A step always answers a next state, but for the host's change of `EXT_TIMER` during a run, which the
model refuses (93_implementation_defined.md U26); no step answers a fault, since a fatal condition is
taken. -/
def Obligations.OnlyTheHostStopsTheMachine : Prop :=
  ∀ s : State,
    (∃ t, step s = .next t)
      ∨ (step s = .refused .extTimerChangedDuringRun ∧ s.run.idle = false
          ∧ ∃ rest, s.host = .setExtTimer (!s.extTimer) :: rest)

/-! ### Reset and the host -/

/-- The state after reset: the values of 10_state.md R30. Memory is what it is after a power-on (the
spec's decision D24), with the default font (D13); the values of `WAIT_REG`, `STACK_DEPTH`, `FONT_DATA` and
the ports are the model's (log entries 2, 3, 6 and 18) and are not stated. -/
def Obligations.ResetLeavesTheseValues : Prop :=
  (∀ x, State.reset.reg x = 0) ∧ State.reset.i = 0 ∧ State.reset.pc = 0x200 ∧ State.reset.dt = 0
    ∧ State.reset.st = 0 ∧ State.reset.sp = 0 ∧ (∀ k, State.reset.slot k = 0)
    ∧ (∀ j, j < 80 → Memory.get State.reset.mem (0x1B0 + j) = Config.fontData.getD j 0)
    ∧ (∀ a, (a < 0x1B0 ∨ 0x200 ≤ a) → Memory.get State.reset.mem a = 0)
    ∧ (∀ y x, Plane.cell State.reset.fb y x = false)
    ∧ State.reset.run = .ready ∧ State.reset.exitCode = 0 ∧ State.reset.fault = ⟨.none, 0, 0⟩

/-- The command RESET outside a run: the registers, timers and stack are zeroed, `PC` is the origin, the
font, the state's `FONT_DATA`, is written and no other byte of memory changes (the spec's decision D24), the
display is cleared with a pulse of CLEAR, `EXIT_CODE` and `FAULT` are cleared (D34), `RUN` is Ready. The
level inputs, the samples of `RND_IN` and the two parameters are as before (log entries 3, 6 and 18). -/
def Obligations.ResetCommandRestoresTheCore : Prop :=
  ∀ (s : State) (rest : List HostEvent),
    s.host = .reset :: rest → s.run.idle = true → Memory.wf s.mem = true →
      ∃ t, step s = .next t
        ∧ (∀ x, t.reg x = 0) ∧ t.i = 0 ∧ t.pc = 0x200 ∧ t.dt = 0 ∧ t.st = 0 ∧ t.sp = 0
        ∧ (∀ k, t.slot k = 0)
        ∧ (∀ j : Fin 80, Memory.get t.mem (0x1B0 + j.val) = s.font[j])
        ∧ (∀ a, (a < 0x1B0 ∨ 0x200 ≤ a) → Memory.get t.mem a = Memory.get s.mem a)
        ∧ (∀ y x, Plane.cell t.fb y x = false)
        ∧ t.run = .ready ∧ t.exitCode = 0 ∧ t.fault = ⟨.none, 0, 0⟩ ∧ t.pulses = [.clear]
        ∧ t.host = rest
        ∧ t.stackDepth = s.stackDepth ∧ t.font = s.font ∧ t.contIn = s.contIn
        ∧ t.extTimer = s.extTimer ∧ t.tickDue = s.tickDue ∧ t.keyDown = s.keyDown ∧ t.rndIn = s.rndIn

/-- The command START outside a run rewinds `PC`, clears `EXIT_CODE` and `FAULT` (the spec's decision D23)
and sets `RUN` to Running; nothing else changes. -/
def Obligations.StartCommandBeginsARun : Prop :=
  ∀ (s : State) (rest : List HostEvent), s.host = .start :: rest → s.run.idle = true →
    step s = .next { s with
      pc := 0x200, exitCode := 0, fault := ⟨.none, 0, 0⟩, run := .running, host := rest, pulses := [] }

/-- The command LOAD outside a run writes the image from the origin up and changes no other byte; an image
of more than 3584 bytes is refused whole (the spec's decision D25). -/
def Obligations.LoadCommandWritesTheImage : Prop :=
  ∀ (s : State) (image : List Byte) (rest : List HostEvent),
    s.host = .load image :: rest → s.run.idle = true → Memory.wf s.mem = true →
      (image.length ≤ 3584 →
        ∃ t, step s = .next t ∧ t = { s with mem := t.mem, host := rest, pulses := [] }
          ∧ (∀ k, k < image.length → some (Memory.get t.mem (0x200 + k)) = image[k]?)
          ∧ keepsOtherBytes s t 0x200 image.length)
      ∧ (3584 < image.length → step s = .next { s with host := rest, pulses := [] })

/-- RESET, START and LOAD during a run are refused: they have no effect on the core (60_exceptions.md
R219). -/
def Obligations.CommandsDuringARunHaveNoEffect : Prop :=
  ∀ (s : State) (image : List Byte) (rest : List HostEvent), s.run.idle = false →
    (s.host = .reset :: rest ∨ s.host = .start :: rest ∨ s.host = .load image :: rest) →
      step s = .next { s with host := rest, pulses := [] }

/-- EXT_TICK is one tick when `EXT_TIMER` is 1 and a run is in progress, and is ignored otherwise. -/
def Obligations.ExtTickTicksOnlyInARunOfTheHostsTimer : Prop :=
  ∀ (s : State) (rest : List HostEvent), s.host = .extTick :: rest →
    (s.extTimer = true → s.run.idle = false → step s = .next (tick (stepStart s rest)))
      ∧ (¬(s.extTimer = true ∧ s.run.idle = false) → step s = .next (stepStart s rest))

/-- A key event in a key wait stores the key in the waiting register and the run goes on at step 6, so that
with `CONTINUE` = 0 it ends Halted-External with the key stored; outside a key wait it is ignored. `PC` is
not touched. -/
def Obligations.KeyEventCompletesTheKeyWait : Prop :=
  ∀ (s : State) (k : Nibble) (rest : List HostEvent), s.host = .keyEvent k :: rest →
    (s.run = .waitKey →
      ∃ t, step s = .next t ∧ (t.reg s.waitReg).toNat = k.val ∧ keepsOtherRegs s t [s.waitReg]
        ∧ t.run = (if s.contIn then .running else .haltedExternal)
        ∧ t = { s with v := t.v, run := t.run, host := rest, pulses := [] })
    ∧ (s.run ≠ .waitKey → step s = .next (stepStart s rest))

/-- When `CONTINUE` falls to 0 in a key wait, the wait ends Halted-External; nothing is said of the waiting
register's new value (the spec's decision D20), and everything else is as it was. With a key event
arriving together, the key is taken first. -/
def Obligations.ContinueFallingCancelsTheKeyWait : Prop :=
  ∀ (s : State) (k : Nibble) (rest : List HostEvent), s.run = .waitKey →
    (s.host = .setContinue false :: rest →
      ∃ t, step s = .next t ∧ t.run = .haltedExternal ∧ keepsOtherRegs s t [s.waitReg]
        ∧ t = { s with
            v := t.v, run := .haltedExternal, contIn := false, host := rest, pulses := []
            freeCtr := t.freeCtr })
    ∧ (s.host = .keyEventAndStop k :: rest →
        ∃ t, step s = .next t ∧ t.run = .haltedExternal ∧ (t.reg s.waitReg).toNat = k.val
          ∧ keepsOtherRegs s t [s.waitReg]
          ∧ t = { s with
              v := t.v, run := .haltedExternal, contIn := false, host := rest, pulses := [] })

/-- In Ready and the four halted states the engine performs no step: the core's state is frozen. -/
def Obligations.IdleStatesAreFrozen : Prop :=
  ∀ (s : State) (rest : List HostEvent), s.run.idle = true → leavesStep s rest →
    step s = .next { s with host := rest, pulses := [] }

/-! ### Control transfer -/

/-- SYS is a no-operation (the spec's decision D5). -/
def Obligations.SysDoesNothing : Prop :=
  ∀ (nnn : Addr) (s : State),
    (nnn ≠ 0x000 → nnn ≠ 0x0E0 → nnn ≠ 0x0EE → hasWord (.sys nnn) nnn.toNat)
      ∧ exec (.sys nnn) s = .next s

/-- RET pops the return address into `PC`; with an empty stack it takes StackUnderflow. -/
def Obligations.RetPopsThePcOrUnderflows : Prop :=
  ∀ s : State, hasWord .ret 0x00EE
    ∧ (s.sp ≠ 0 → exec .ret s = .next { s with pc := s.slot (s.sp - 1), sp := s.sp - 1 })
    ∧ (s.sp = 0 → exec .ret s = .next (faulted s .stackUnderflow 0x00EE (s.pc - 2)))

/-- JP sets `PC` to its target; a jump to its own address also halts the run, with `PC` at the target
(scope of the guard and `PC` at the halt: the spec's decision D22). -/
def Obligations.JpJumpsAndHaltsOnItself : Prop :=
  ∀ (nnn : Addr) (s : State), hasWord (.jp nnn) (0x1000 + nnn.toNat)
    ∧ (nnn.setWidth 16 ≠ s.pc - 2 → exec (.jp nnn) s = .next { s with pc := nnn.setWidth 16 })
    ∧ (nnn.setWidth 16 = s.pc - 2 →
        exec (.jp nnn) s = .next { s with pc := nnn.setWidth 16, run := .haltedLoop })

/-- CALL pushes the advanced `PC` and jumps; on a full stack it takes StackOverflow and pushes nothing
(the spec's decision D9). -/
def Obligations.CallPushesTheReturnAddress : Prop :=
  ∀ (nnn : Addr) (s : State), hasWord (.call nnn) (0x2000 + nnn.toNat)
    ∧ (s.stackFull = false →
        ∃ t, exec (.call nnn) s = .next t ∧ t.pc = nnn.setWidth 16 ∧ t.sp = s.sp + 1
          ∧ t.slot s.sp = s.pc ∧ (∀ k, k ≠ s.sp → t.slot k = s.slot k)
          ∧ t = { s with pc := t.pc, stack := t.stack, sp := t.sp })
    ∧ (s.stackDepth = some s.sp →
        exec (.call nnn) s =
          .next (faulted s .stackOverflow (BitVec.ofNat 16 (0x2000 + nnn.toNat)) (s.pc - 2)))

/-- JPV0 jumps to the natural sum `nnn + V[0]`, not masked (the spec's decision D30), and never halts. -/
def Obligations.JpvZeroJumpsToTheSum : Prop :=
  ∀ (nnn : Addr) (s : State), hasWord (.jpv0 nnn) (0xB000 + nnn.toNat)
    ∧ ∃ t, exec (.jpv0 nnn) s = .next t ∧ t.pc.toNat = nnn.toNat + (s.reg 0).toNat
        ∧ t = { s with pc := t.pc }

/-! ### Skips -/

/-- SE and SNE compare a register with an immediate; on a match of the condition `PC`, already advanced by
2, goes 2 further; no register changes. -/
def Obligations.SkipsOnImmediate : Prop :=
  ∀ (x : Reg) (kk : Byte) (s : State),
    hasWord (.se x kk) (0x3000 + x.val * 256 + kk.toNat)
    ∧ hasWord (.sne x kk) (0x4000 + x.val * 256 + kk.toNat)
    ∧ exec (.se x kk) s = .next { s with pc := if s.reg x = kk then s.pc + 2 else s.pc }
    ∧ exec (.sne x kk) s = .next { s with pc := if s.reg x ≠ kk then s.pc + 2 else s.pc }

/-- SEV and SNEV compare two registers. -/
def Obligations.SkipsOnRegisters : Prop :=
  ∀ (x y : Reg) (s : State),
    hasWord (.sev x y) (0x5000 + x.val * 256 + y.val * 16)
    ∧ hasWord (.snev x y) (0x9000 + x.val * 256 + y.val * 16)
    ∧ exec (.sev x y) s = .next { s with pc := if s.reg x = s.reg y then s.pc + 2 else s.pc }
    ∧ exec (.snev x y) s = .next { s with pc := if s.reg x ≠ s.reg y then s.pc + 2 else s.pc }

/-- SKP and SKNP ask the host about the key `V[x]`, all 8 bits of it (the spec's decision D21), and skip on
its answer; the answer to each of the 256 values is an input of the state. -/
def Obligations.SkipsOnKeys : Prop :=
  ∀ (x : Reg) (s : State),
    hasWord (.skp x) (0xE09E + x.val * 256) ∧ hasWord (.sknp x) (0xE0A1 + x.val * 256)
    ∧ exec (.skp x) s = .next { s with
        pc := if s.keyDown.getLsbD (s.reg x).toNat = true then s.pc + 2 else s.pc
        pulses := s.pulses ++ [.keyQuery (s.reg x)] }
    ∧ exec (.sknp x) s = .next { s with
        pc := if s.keyDown.getLsbD (s.reg x).toNat = false then s.pc + 2 else s.pc
        pulses := s.pulses ++ [.keyQuery (s.reg x)] }

/-! ### Load, arithmetic, logic, shift, random -/

/-- LD sets a register to the immediate exactly and LDV to another register; nothing else changes, `PC`
stays as advanced. -/
def Obligations.LoadsSetTheRegister : Prop :=
  ∀ (x y : Reg) (kk : Byte) (s : State),
    hasWord (.ld x kk) (0x6000 + x.val * 256 + kk.toNat)
    ∧ hasWord (.ldv x y) (0x8000 + x.val * 256 + y.val * 16)
    ∧ (∃ t, exec (.ld x kk) s = .next t ∧ t.reg x = kk ∧ keepsOtherRegs s t [x] ∧ t = { s with v := t.v })
    ∧ (∃ t, exec (.ldv x y) s = .next t ∧ t.reg x = s.reg y ∧ keepsOtherRegs s t [x]
        ∧ t = { s with v := t.v })

/-- ADD adds the immediate modulo 256 and reports no carry: VF changes only as the destination (the spec's
decision D12). -/
def Obligations.AddWrapsWithoutFlag : Prop :=
  ∀ (x : Reg) (kk : Byte) (s : State), hasWord (.add x kk) (0x7000 + x.val * 256 + kk.toNat)
    ∧ ∃ t, exec (.add x kk) s = .next t
        ∧ (t.reg x).toNat = ((s.reg x).toNat + kk.toNat) % 256
        ∧ keepsOtherRegs s t [x] ∧ t = { s with v := t.v }

/-- OR, AND and XOR combine two registers bit by bit and do not touch VF but as the destination (the spec's
decision D12). -/
def Obligations.LogicCombinesTheRegisters : Prop :=
  ∀ (x y : Reg) (s : State),
    hasWord (.or x y) (0x8001 + x.val * 256 + y.val * 16)
    ∧ hasWord (.and x y) (0x8002 + x.val * 256 + y.val * 16)
    ∧ hasWord (.xor x y) (0x8003 + x.val * 256 + y.val * 16)
    ∧ (∃ t, exec (.or x y) s = .next t ∧ keepsOtherRegs s t [x] ∧ t = { s with v := t.v }
        ∧ ∀ b, b < 8 → (t.reg x).getLsbD b = ((s.reg x).getLsbD b || (s.reg y).getLsbD b))
    ∧ (∃ t, exec (.and x y) s = .next t ∧ keepsOtherRegs s t [x] ∧ t = { s with v := t.v }
        ∧ ∀ b, b < 8 → (t.reg x).getLsbD b = ((s.reg x).getLsbD b && (s.reg y).getLsbD b))
    ∧ (∃ t, exec (.xor x y) s = .next t ∧ keepsOtherRegs s t [x] ∧ t = { s with v := t.v }
        ∧ ∀ b, b < 8 → (t.reg x).getLsbD b = ((s.reg x).getLsbD b != (s.reg y).getLsbD b))

/-- ADDV: the sum modulo 256 in the destination, then the carry in VF, so that VF holds the carry even as
the destination; the operands are those before any write. -/
def Obligations.AddvSetsSumThenCarry : Prop :=
  ∀ (x y : Reg) (s : State), hasWord (.addv x y) (0x8004 + x.val * 256 + y.val * 16)
    ∧ ∃ t, exec (.addv x y) s = .next t
        ∧ (x ≠ vf → (t.reg x).toNat = ((s.reg x).toNat + (s.reg y).toNat) % 256)
        ∧ t.reg vf = (if 255 < (s.reg x).toNat + (s.reg y).toNat then 1 else 0)
        ∧ keepsOtherRegs s t [x, vf] ∧ t = { s with v := t.v }

/-- SUB and SUBN: the difference modulo 256, then the not-borrow flag in VF. That the result is written
before the flag is the spec's decision D10. -/
def Obligations.SubSetsDifferenceThenNotBorrow : Prop :=
  ∀ (x y : Reg) (s : State),
    hasWord (.sub x y) (0x8005 + x.val * 256 + y.val * 16)
    ∧ hasWord (.subn x y) (0x8007 + x.val * 256 + y.val * 16)
    ∧ (∃ t, exec (.sub x y) s = .next t
        ∧ (x ≠ vf → ((t.reg x).toNat : Int) = ((s.reg x).toNat - (s.reg y).toNat : Int) % 256)
        ∧ t.reg vf = (if (s.reg y).toNat ≤ (s.reg x).toNat then 1 else 0)
        ∧ keepsOtherRegs s t [x, vf] ∧ t = { s with v := t.v })
    ∧ (∃ t, exec (.subn x y) s = .next t
        ∧ (x ≠ vf → ((t.reg x).toNat : Int) = ((s.reg y).toNat - (s.reg x).toNat : Int) % 256)
        ∧ t.reg vf = (if (s.reg x).toNat ≤ (s.reg y).toNat then 1 else 0)
        ∧ keepsOtherRegs s t [x, vf] ∧ t = { s with v := t.v })

/-- SHR and SHL: the bit shifted out in VF, then the register shifted in place by one, so that VF as the
destination ends with the shifted value; `V[y]` plays no part (the spec's decisions D10 and D11). -/
def Obligations.ShiftsSetFlagThenResult : Prop :=
  ∀ (x y : Reg) (s : State),
    hasWord (.shr x y) (0x8006 + x.val * 256 + y.val * 16)
    ∧ hasWord (.shl x y) (0x800E + x.val * 256 + y.val * 16)
    ∧ (∃ t, exec (.shr x y) s = .next t ∧ (t.reg x).toNat = (s.reg x).toNat / 2
        ∧ (x ≠ vf → (t.reg vf).toNat = (s.reg x).toNat % 2)
        ∧ keepsOtherRegs s t [x, vf] ∧ t = { s with v := t.v })
    ∧ (∃ t, exec (.shl x y) s = .next t ∧ (t.reg x).toNat = (s.reg x).toNat * 2 % 256
        ∧ (x ≠ vf → (t.reg vf).toNat = (s.reg x).toNat / 128)
        ∧ keepsOtherRegs s t [x, vf] ∧ t = { s with v := t.v })

/-- RND takes one sample of `RND_IN` under its mask: the next byte the host presents, or, with none
scheduled in the state, a free value of which only the mask is known. -/
def Obligations.RndMasksOneSample : Prop :=
  ∀ (x : Reg) (kk : Byte) (s : State), hasWord (.rnd x kk) (0xC000 + x.val * 256 + kk.toNat)
    ∧ (∀ b rest, s.rndIn = b :: rest →
        ∃ t, exec (.rnd x kk) s = .next t ∧ t.reg x = b &&& kk ∧ keepsOtherRegs s t [x]
          ∧ t = { s with v := t.v, rndIn := rest })
    ∧ (s.rndIn = [] →
        ∃ t, exec (.rnd x kk) s = .next t ∧ t.reg x &&& ~~~kk = 0 ∧ keepsOtherRegs s t [x]
          ∧ t = { s with v := t.v, freeCtr := t.freeCtr })

/-! ### Index register and memory -/

/-- LDI loads the index register. -/
def Obligations.LdiLoadsTheIndex : Prop :=
  ∀ (nnn : Addr) (s : State), hasWord (.ldi nnn) (0xA000 + nnn.toNat)
    ∧ ∃ t, exec (.ldi nnn) s = .next t ∧ t.i.toNat = nnn.toNat ∧ t = { s with i := t.i }

/-- ADDI adds a register to the index, modulo 0x1000 and without a flag (the spec's decisions D7 and D12);
LDF points it at the glyph of the whole byte `V[x]` (D14). -/
def Obligations.AddiAndLdfSetTheIndex : Prop :=
  ∀ (x : Reg) (s : State),
    hasWord (.addi x) (0xF01E + x.val * 256) ∧ hasWord (.ldf x) (0xF029 + x.val * 256)
    ∧ (∃ t, exec (.addi x) s = .next t ∧ t.i.toNat = (s.i.toNat + (s.reg x).toNat) % 0x1000
        ∧ t = { s with i := t.i })
    ∧ (∃ t, exec (.ldf x) s = .next t ∧ t.i.toNat = 0x1B0 + 5 * (s.reg x).toNat
        ∧ t = { s with i := t.i })

/-- LDBC stores the hundreds, tens and ones digits at `I`, `I + 1` and `I + 2` and changes no other byte;
when the three bytes are not all in memory it takes OutOfBounds and writes nothing. -/
def Obligations.LdbcStoresTheDigits : Prop :=
  ∀ (x : Reg) (s : State), Memory.wf s.mem = true → hasWord (.ldbc x) (0xF033 + x.val * 256)
    ∧ (s.i.toNat + 2 < 0x1000 →
        ∃ t, exec (.ldbc x) s = .next t
          ∧ (Memory.get t.mem s.i.toNat).toNat = (s.reg x).toNat / 100
          ∧ (Memory.get t.mem (s.i.toNat + 1)).toNat = (s.reg x).toNat / 10 % 10
          ∧ (Memory.get t.mem (s.i.toNat + 2)).toNat = (s.reg x).toNat % 10
          ∧ keepsOtherBytes s t s.i.toNat 3 ∧ t = { s with mem := t.mem })
    ∧ (0x1000 ≤ s.i.toNat + 2 →
        exec (.ldbc x) s = .next (faulted s .outOfBounds (BitVec.ofNat 16 (0xF033 + x.val * 256))
          (BitVec.ofNat 16 (max s.i.toNat 0x1000))))

/-- LDMW stores `V0..Vx` from `I` up, changes no other byte, and advances `I` by `x`; when the span is not
in memory it takes OutOfBounds, writes nothing and leaves `I`. -/
def Obligations.LdmwStoresTheRegisters : Prop :=
  ∀ (x : Reg) (s : State), Memory.wf s.mem = true → hasWord (.ldmw x) (0xF055 + x.val * 256)
    ∧ (s.i.toNat + x.val < 0x1000 →
        ∃ t, exec (.ldmw x) s = .next t
          ∧ (∀ k : Reg, k ≤ x → Memory.get t.mem (s.i.toNat + k.val) = s.reg k)
          ∧ keepsOtherBytes s t s.i.toNat (x.val + 1)
          ∧ t.i.toNat = s.i.toNat + x.val ∧ t = { s with mem := t.mem, i := t.i })
    ∧ (0x1000 ≤ s.i.toNat + x.val →
        exec (.ldmw x) s = .next (faulted s .outOfBounds (BitVec.ofNat 16 (0xF055 + x.val * 256))
          (BitVec.ofNat 16 (max s.i.toNat 0x1000))))

/-- LDMR loads `V0..Vx` from `I` up, leaves the registers above `x` and all of memory, and advances `I` by
`x`; when the span is not in memory it takes OutOfBounds and writes no register. -/
def Obligations.LdmrLoadsTheRegisters : Prop :=
  ∀ (x : Reg) (s : State), hasWord (.ldmr x) (0xF065 + x.val * 256)
    ∧ (s.i.toNat + x.val < 0x1000 →
        ∃ t, exec (.ldmr x) s = .next t
          ∧ (∀ k : Reg, k ≤ x → t.reg k = Memory.get s.mem (s.i.toNat + k.val))
          ∧ (∀ k : Reg, x < k → t.reg k = s.reg k)
          ∧ t.i.toNat = s.i.toNat + x.val ∧ t = { s with v := t.v, i := t.i })
    ∧ (0x1000 ≤ s.i.toNat + x.val →
        exec (.ldmr x) s = .next (faulted s .outOfBounds (BitVec.ofNat 16 (0xF065 + x.val * 256))
          (BitVec.ofNat 16 (max s.i.toNat 0x1000))))

/-! ### Display -/

/-- CLS unsets every cell and pulses CLEAR; VF is not written. -/
def Obligations.ClsClearsTheDisplay : Prop :=
  ∀ s : State, hasWord .cls 0x00E0
    ∧ ∃ t, exec .cls s = .next t ∧ (∀ y x, Plane.cell t.fb y x = false)
        ∧ t = { s with fb := t.fb, pulses := s.pulses ++ [.clear] }

/-- DRW reads its rows at `I`, draws the request at (`V[x]`, `V[y]`), mirrors it on DRAW_REQ and sets VF to
the collision; when the rows are not in memory it takes OutOfBounds and draws nothing. That a sprite of
no rows draws nothing, and that the raw coordinates are passed, is the spec's decision D15. -/
def Obligations.DrwDrawsAndReportsCollision : Prop :=
  ∀ (x y : Reg) (n : Nibble) (s : State),
    hasWord (.drw x y n) (0xD000 + x.val * 256 + y.val * 16 + n.val)
    ∧ ((n = 0 ∨ s.i.toNat + n.val ≤ 0x1000) →
        ∃ t req, exec (.drw x y n) s = .next t
          ∧ req.x = s.reg x ∧ req.y = s.reg y ∧ req.h = n ∧ req.bitmap.length = 8 * n.val
          ∧ (∀ r c, r < n.val → c < 8 →
              spriteBit req r c = (Memory.get s.mem (s.i.toNat + r)).getLsbD (7 - c))
          ∧ t.fb = (blit req s.fb).1 ∧ t.reg vf = (if (blit req s.fb).2 then 1 else 0)
          ∧ keepsOtherRegs s t [vf]
          ∧ t = { s with v := t.v, fb := t.fb, pulses := s.pulses ++ [.drawReq req] })
    ∧ (¬(n = 0 ∨ s.i.toNat + n.val ≤ 0x1000) →
        exec (.drw x y n) s = .next (faulted s .outOfBounds
          (BitVec.ofNat 16 (0xD000 + x.val * 256 + y.val * 16 + n.val))
          (BitVec.ofNat 16 (max s.i.toNat 0x1000))))

/-- The blitter flips exactly the cells a set pixel of the sprite lands on, with wraparound at both edges,
and reports a collision exactly when one of them was set. -/
def Obligations.BlitFlipsExactlyTheSpriteCells : Prop :=
  ∀ (req : DrawReq) (p : Plane),
    (∀ y x, (∃ r c, pixelHits req y x r c) → Plane.cell (blit req p).1 y x = !Plane.cell p y x)
    ∧ (∀ y x, ¬(∃ r c, pixelHits req y x r c) → Plane.cell (blit req p).1 y x = Plane.cell p y x)
    ∧ ((blit req p).2 = true ↔ ∃ y x r c, pixelHits req y x r c ∧ Plane.cell p y x = true)

/-- Drawing the same request twice restores the plane, and the second time reports a collision exactly
when a set pixel's cell was unset at first; so on a plane unset under the sprite, exactly when the sprite
has a set pixel. (44_display.md R182 corner case (e) says the last of every plane: log entry 8.) -/
def Obligations.BlitTwiceRestoresThePlane : Prop :=
  ∀ (req : DrawReq) (p : Plane),
    (blit req (blit req p).1).1 = p
      ∧ ((blit req (blit req p).1).2 = true ↔ ∃ y x r c, pixelHits req y x r c ∧ Plane.cell p y x = false)

/-! ### Timers, key wait, debug exit -/

/-- LDDT reads the delay timer, STDT loads it and STST loads the sound timer; no beep is requested. -/
def Obligations.TimerInstructionsMoveAByte : Prop :=
  ∀ (x : Reg) (s : State),
    hasWord (.lddt x) (0xF007 + x.val * 256) ∧ hasWord (.stdt x) (0xF015 + x.val * 256)
    ∧ hasWord (.stst x) (0xF018 + x.val * 256)
    ∧ (∃ t, exec (.lddt x) s = .next t ∧ t.reg x = s.dt ∧ keepsOtherRegs s t [x] ∧ t = { s with v := t.v })
    ∧ exec (.stdt x) s = .next { s with dt := s.reg x }
    ∧ exec (.stst x) s = .next { s with st := s.reg x }

/-- LDKP puts the core into the key wait with its register remembered; nothing else changes until a key
event or `CONTINUE` = 0 (`KeyEventCompletesTheKeyWait`, `ContinueFallingCancelsTheKeyWait`). -/
def Obligations.LdkpBeginsTheKeyWait : Prop :=
  ∀ (x : Reg) (s : State), hasWord (.ldkp x) (0xF00A + x.val * 256)
    ∧ exec (.ldkp x) s = .next { s with waitReg := x, run := .waitKey }

/-- ASSERT records the index register as the exit code and halts the run (its one opcode is the spec's
decision D3). -/
def Obligations.AssertHaltsWithTheIndex : Prop :=
  ∀ s : State, hasWord .assert 0xF999
    ∧ exec .assert s = .next { s with exitCode := s.i, run := .haltedNormal }

/-! ### Over all instructions -/

/-- No instruction writes a V register that 10_state.md R13 does not give it; in particular VF is written
as a flag by ADDV, SUB, SHR, SUBN, SHL and DRW alone. -/
def Obligations.InstructionsWriteOnlyTheirRegisters : Prop :=
  ∀ (i : Instr) (s t : State), exec i s = .next t → keepsOtherRegs s t (regsWritten i)

/-- Every other piece of state is written only by the instructions the spec names for it: memory by LDBC
and LDMW, the display by CLS and DRW, `I` by LDI, ADDI, LDF, LDMW and LDMR, the timers by STDT and STST,
the stack by CALL and RET, `EXIT_CODE` by ASSERT, `WAIT_REG` by LDKP; the ports and the parameters by none. -/
def Obligations.OtherStateIsWrittenOnlyWhereNamed : Prop :=
  ∀ (i : Instr) (s t : State), exec i s = .next t →
    ((∀ x, i ≠ .ldbc x) → (∀ x, i ≠ .ldmw x) → ∀ a, Memory.get t.mem a = Memory.get s.mem a)
    ∧ (i ≠ .cls → (∀ x y n, i ≠ .drw x y n) → t.fb = s.fb)
    ∧ ((∀ nnn, i ≠ .ldi nnn) → (∀ x, i ≠ .addi x) → (∀ x, i ≠ .ldf x) → (∀ x, i ≠ .ldmw x) →
        (∀ x, i ≠ .ldmr x) → t.i = s.i)
    ∧ ((∀ x, i ≠ .stdt x) → t.dt = s.dt) ∧ ((∀ x, i ≠ .stst x) → t.st = s.st)
    ∧ ((∀ nnn, i ≠ .call nnn) → t.stack = s.stack ∧ (i ≠ .ret → t.sp = s.sp))
    ∧ (i ≠ .assert → t.exitCode = s.exitCode)
    ∧ ((∀ x, i ≠ .ldkp x) → t.waitReg = s.waitReg)
    ∧ ((∀ x kk, i ≠ .rnd x kk) → t.rndIn = s.rndIn ∧ t.freeCtr = s.freeCtr)
    ∧ t.stackDepth = s.stackDepth ∧ t.font = s.font ∧ t.contIn = s.contIn ∧ t.extTimer = s.extTimer
    ∧ t.tickDue = s.tickDue ∧ t.keyDown = s.keyDown ∧ t.host = s.host

/-- How each instruction at the address `a` leaves `PC`: the list of 10_state.md R16; LDKP then waits and
ASSERT is halted; on a fault in the execution step, of an instruction or of a word that does not decode,
`PC` is `a + 2`, on a fault of the fetch it is `a`. -/
def Obligations.PcAfterEachInstruction : Prop :=
  (∀ (i : Instr) (s t : State) (a : Word), s.pc = a + 2 → s.run = .running → exec i s = .next t →
    (t.run ≠ .haltedFault → t.pc = pcAfter a i s)
      ∧ (t.run = .haltedFault → t.pc = a + 2)
      ∧ (∀ x, i = .ldkp x → t.run = .waitKey)
      ∧ (i = .assert → t.run = .haltedNormal))
    ∧ (∀ (op : Word) (s : State) (a : Word) (e : DecodeError), s.pc = a + 2 → decodeOp op = .error e →
        ∃ t, executeWord op s = .next t ∧ t.run = .haltedFault ∧ t.pc = a + 2)
    ∧ ∀ (s : State) (f : Fault), fetch s = .error f →
        ∃ t, fetchAndExecute s = .next t ∧ t.run = .haltedFault ∧ t.pc = s.pc

/-- Only RET, CALL, DRW, LDBC, LDMW and LDMR fault, each with its own condition, and the state is otherwise
as it was: faults are precise (the spec's decision D16). -/
def Obligations.FaultsArePreciseAndOnlyTheirs : Prop :=
  ∀ (i : Instr) (s t : State), exec i s = .next t → s.run = .running → t.run = .haltedFault →
    (i = .ret ∧ s.sp = 0 ∧ t = faulted s .stackUnderflow 0x00EE (s.pc - 2))
    ∨ ((∃ nnn, i = .call nnn) ∧ s.stackFull = true ∧ t = faulted s .stackOverflow (encode i) (s.pc - 2))
    ∨ ((∃ x, i = .ldbc x ∨ i = .ldmw x ∨ i = .ldmr x) ∨ (∃ x y n, i = .drw x y n))
        ∧ t = faulted s .outOfBounds (encode i) (BitVec.ofNat 16 (max s.i.toNat 0x1000))
end

