-- ==== Sys2Proof/Laws/Encoding.lean ====
section
/-! SUPPORT. The fields of an encoded word, one lemma per format of 30_encoding.md R87, and the bytes of
an opcode. -/
namespace Sys2Proof

/-! ### The value of a word of each format -/

theorem encNNN_toNat (l : Nat) (nnn : Addr) (hl : l < 16) :
    (encNNN l nnn).toNat = l * 4096 + nnn.toNat := by
  have := nnn.isLt
  simp only [encNNN, BitVec.toNat_ofNat]; omega

theorem encXKK_toNat (l : Nat) (x : Reg) (kk : Byte) (hl : l < 16) :
    (encXKK l x kk).toNat = l * 4096 + x.val * 256 + kk.toNat := by
  have := kk.isLt
  have := x.isLt
  simp only [encXKK, BitVec.toNat_ofNat]; omega

theorem encXYN_toNat (l : Nat) (x y : Reg) (n : Nat) (hl : l < 16) (hn : n < 16) :
    (encXYN l x y n).toNat = l * 4096 + x.val * 256 + y.val * 16 + n := by
  have := x.isLt
  have := y.isLt
  simp only [encXYN, BitVec.toNat_ofNat]; omega

theorem encXLL_toNat (l : Nat) (x : Reg) (ll : Nat) (hl : l < 16) (hn : ll < 256) :
    (encXLL l x ll).toNat = l * 4096 + x.val * 256 + ll := by
  have := x.isLt
  simp only [encXLL, BitVec.toNat_ofNat]; omega

/-! ### Nibbles and fields by value -/

theorem nib0_val (op : Word) : (nib0 op).val = op.toNat / 4096 % 16 := rfl
theorem nib1_val (op : Word) : (nib1 op).val = op.toNat / 256 % 16 := rfl
theorem nib2_val (op : Word) : (nib2 op).val = op.toNat / 16 % 16 := rfl
theorem nib3_val (op : Word) : (nib3 op).val = op.toNat % 16 := rfl

/-- A word is its four nibbles (00_scope.md R6). -/
theorem word_eq_nibbles (op : Word) :
    op.toNat = (nib0 op).val * 4096 + (nib1 op).val * 256 + (nib2 op).val * 16 + (nib3 op).val := by
  have := op.isLt
  rw [nib0_val, nib1_val, nib2_val, nib3_val]; omega

/-- Format `NNN`: the leading literal and the address come back. -/
theorem encNNN_fields (l : Nat) (nnn : Addr) (hl : l < 16) :
    nib0 (encNNN l nnn) = Fin.ofNat 16 l ∧ fieldNNN (encNNN l nnn) = nnn := by
  have hn := nnn.isLt
  constructor
  · apply Fin.ext; rw [nib0_val, encNNN_toNat l nnn hl, Fin.val_ofNat]; omega
  · apply BitVec.eq_of_toNat_eq
    rw [fieldNNN, BitVec.toNat_ofNat, encNNN_toNat l nnn hl]; omega

/-- Format `XKK`: the leading literal, the register and the immediate come back. -/
theorem encXKK_fields (l : Nat) (x : Reg) (kk : Byte) (hl : l < 16) :
    nib0 (encXKK l x kk) = Fin.ofNat 16 l ∧ fieldX (encXKK l x kk) = x
      ∧ fieldKK (encXKK l x kk) = kk := by
  have hk := kk.isLt
  have hx := x.isLt
  refine ⟨?_, ?_, ?_⟩
  · apply Fin.ext; rw [nib0_val, encXKK_toNat l x kk hl, Fin.val_ofNat]; omega
  · apply Fin.ext; rw [fieldX, encXKK_toNat l x kk hl, Fin.val_ofNat]; omega
  · apply BitVec.eq_of_toNat_eq
    rw [fieldKK, BitVec.toNat_ofNat, encXKK_toNat l x kk hl]; omega

/-- Formats `XYL` and `XYN`: the leading literal, both registers and the last nibble come back. -/
theorem encXYN_fields (l : Nat) (x y : Reg) (n : Nat) (hl : l < 16) (hn : n < 16) :
    nib0 (encXYN l x y n) = Fin.ofNat 16 l ∧ fieldX (encXYN l x y n) = x
      ∧ fieldY (encXYN l x y n) = y ∧ fieldN (encXYN l x y n) = Fin.ofNat 16 n := by
  have hx := x.isLt
  have hy := y.isLt
  refine ⟨?_, ?_, ?_, ?_⟩
  · apply Fin.ext; rw [nib0_val, encXYN_toNat l x y n hl hn, Fin.val_ofNat]; omega
  · apply Fin.ext; rw [fieldX, encXYN_toNat l x y n hl hn, Fin.val_ofNat]; omega
  · apply Fin.ext; rw [fieldY, encXYN_toNat l x y n hl hn, Fin.val_ofNat]; omega
  · apply Fin.ext; rw [fieldN, encXYN_toNat l x y n hl hn, Fin.val_ofNat, Fin.val_ofNat]; omega

/-- Format `XLL`: the leading literal, the register and the low byte come back. -/
theorem encXLL_fields (l : Nat) (x : Reg) (ll : Nat) (hl : l < 16) (hn : ll < 256) :
    nib0 (encXLL l x ll) = Fin.ofNat 16 l ∧ fieldX (encXLL l x ll) = x
      ∧ fieldKK (encXLL l x ll) = BitVec.ofNat 8 ll := by
  have hx := x.isLt
  refine ⟨?_, ?_, ?_⟩
  · apply Fin.ext; rw [nib0_val, encXLL_toNat l x ll hl hn, Fin.val_ofNat]; omega
  · apply Fin.ext; rw [fieldX, encXLL_toNat l x ll hl hn, Fin.val_ofNat]; omega
  · apply BitVec.eq_of_toNat_eq
    rw [fieldKK, BitVec.toNat_ofNat, encXLL_toNat l x ll hl hn, BitVec.toNat_ofNat]; omega

/-! ### The bytes of an opcode -/

/-- An opcode is its high byte and its low byte (20_memory.md R64). -/
theorem opcodeOf_bytes (op : Word) : opcodeOf (highByte op) (lowByte op) = op := by
  have := op.isLt
  apply BitVec.eq_of_toNat_eq
  simp only [opcodeOf, highByte, lowByte, BitVec.toNat_append, BitVec.toNat_ofNat]
  rw [← Nat.shiftLeft_add_eq_or_of_lt (by omega), Nat.shiftLeft_eq]
  omega

end Sys2Proof
end

