-- ==== Sys2Proof/Laws/Memory.lean ====
section
/-! SUPPORT. The laws of memory: a read after a write, and that every memory operation keeps the canonical
form. -/
namespace Sys2Proof.Machine

/-! ### The canonical form -/

theorem Memory.above_cons (lo k : Nat) (b : Byte) (m : Memory) :
    Memory.above lo ((k, b) :: m) = true ↔ lo < k ∧ Memory.above lo m = true := by
  simp [Memory.above]

theorem Memory.wf_cons (k : Nat) (b : Byte) (m : Memory) :
    Memory.wf ((k, b) :: m) = true ↔
      k < Config.memSize ∧ b ≠ Memory.blank k ∧ Memory.above k m = true ∧ Memory.wf m = true := by
  simp [Memory.wf, and_assoc]

theorem Memory.above_mono {lo hi : Nat} (h : lo ≤ hi) (m : Memory) (hm : Memory.above hi m = true) :
    Memory.above lo m = true := by
  induction m with
  | nil => rfl
  | cons p m ih =>
    obtain ⟨k, b⟩ := p
    rw [Memory.above_cons] at hm ⊢
    exact ⟨by omega, ih hm.2⟩

/-- An address not above the bound of a list is unlisted. -/
theorem Memory.get_of_above {lo a : Nat} (h : a ≤ lo) (m : Memory) (hm : Memory.above lo m = true) :
    Memory.get m a = Memory.blank a := by
  induction m with
  | nil => rfl
  | cons p m ih =>
    obtain ⟨k, b⟩ := p
    rw [Memory.above_cons] at hm
    have hk : k ≠ a := by omega
    simp [Memory.get, hk, ih hm.2]

theorem Memory.above_set {lo a : Nat} (b : Byte) (h : lo < a) (m : Memory)
    (hm : Memory.above lo m = true) : Memory.above lo (Memory.set m a b) = true := by
  induction m with
  | nil => unfold Memory.set; split <;> simp [Memory.above, h]
  | cons p m ih =>
    obtain ⟨k, c⟩ := p
    rw [Memory.above_cons] at hm
    unfold Memory.set
    split
    · split <;> simp [Memory.above_cons, hm, h]
    · split
      · split <;> simp [Memory.above_cons, hm, h]
      · simp [Memory.above_cons, hm, ih]

/-- A write to an address of memory keeps the canonical form. -/
theorem Memory.wf_set {a : Nat} (b : Byte) (h : a < Config.memSize) (m : Memory)
    (hm : Memory.wf m = true) : Memory.wf (Memory.set m a b) = true := by
  induction m with
  | nil => unfold Memory.set; split <;> simp_all [Memory.wf, Memory.above]
  | cons p m ih =>
    obtain ⟨k, c⟩ := p
    rw [Memory.wf_cons] at hm
    obtain ⟨hk, hc, habove, hrest⟩ := hm
    unfold Memory.set
    split
    · have hmono := Memory.above_mono (lo := a) (by omega : a ≤ k) m habove
      split <;> simp_all [Memory.wf_cons, Memory.above_cons]
    · split
      · split <;> simp_all [Memory.wf_cons]
      · have hset := Memory.above_set (lo := k) (a := a) b (by omega) m habove
        simp_all [Memory.wf_cons]

/-! ### A read after a write -/

/-- A write gives its address the byte written and leaves every other address alone. -/
theorem Memory.get_set (a x : Nat) (b : Byte) (m : Memory) (hm : Memory.wf m = true) :
    Memory.get (Memory.set m a b) x = if x = a then b else Memory.get m x := by
  induction m with
  | nil =>
    by_cases hb : b = Memory.blank a
    · by_cases hx : x = a <;> simp_all [Memory.set, Memory.get]
    · by_cases hx : x = a
      · simp_all [Memory.set, Memory.get]
      · have hx' : a ≠ x := fun e => hx e.symm
        simp [Memory.set, Memory.get, hb, hx, hx']
  | cons p m ih =>
    obtain ⟨k, c⟩ := p
    rw [Memory.wf_cons] at hm
    obtain ⟨hk, hc, habove, hrest⟩ := hm
    unfold Memory.set
    split
    · rename_i hlt
      have hun := Memory.get_of_above (by omega : a ≤ k) m habove
      have hka : k ≠ a := by omega
      by_cases hx : x = a
      · subst hx
        split
        · rename_i hb; simp [Memory.get, hka, hun, hb]
        · simp [Memory.get]
      · have hx' : a ≠ x := fun e => hx e.symm
        split <;> simp [Memory.get, hx']
    · split
      · rename_i hak
        subst hak
        have hun := Memory.get_of_above (Nat.le_refl a) m habove
        by_cases hx : x = a
        · subst hx
          split
          · rename_i hb; simp [hun, hb]
          · simp [Memory.get]
        · have hx' : a ≠ x := fun e => hx e.symm
          split <;> simp [Memory.get, hx']
      · rename_i hak
        have hak' : k ≠ a := fun e => hak e.symm
        by_cases hx : x = k
        · subst hx; simp [Memory.get, hak']
        · have hx' : k ≠ x := fun e => hx e.symm
          simp [Memory.get, hx', ih hrest]

/-! ### Spans -/

theorem inRange_iff (addr n : Nat) : inRange addr n = true ↔ n = 0 ∨ addr + n ≤ 4096 := by
  by_cases h : n = 0
  · simp [inRange, h]
  · have hn : (n == 0) = false := by simp [h]
    have hd : decide (addr + n - 1 < Config.memSize) = true ↔ addr + n - 1 < 4096 := decide_eq_true_iff
    simp only [inRange, hn, Bool.false_or, h, false_or, hd]
    omega

@[simp] theorem readBytes_length (m : Memory) (addr n : Nat) : (readBytes m addr n).length = n := by
  induction n generalizing addr with
  | zero => rfl
  | succ n ih => simp [readBytes, ih]

/-- The `k`-th byte of a span read is the byte at its address. -/
theorem readBytes_getD (m : Memory) (addr n k : Nat) (d : Byte) (h : k < n) :
    (readBytes m addr n).getD k d = Memory.get m (addr + k) := by
  induction n generalizing addr k with
  | zero => omega
  | succ n ih =>
    cases k with
    | zero => simp [readBytes]
    | succ k =>
      have := ih (addr + 1) k (by omega)
      simpa [readBytes, Nat.add_assoc, Nat.add_comm 1 k] using this

/-- Bytes written inside memory keep the canonical form. -/
theorem writeBytes_wf (m : Memory) (addr : Nat) (bs : List Byte) (hm : Memory.wf m = true)
    (h : addr + bs.length ≤ 4096) : Memory.wf (writeBytes m addr bs) = true := by
  induction bs generalizing m addr with
  | nil => exact hm
  | cons b bs ih =>
    simp only [List.length_cons] at h
    exact ih _ _ (Memory.wf_set b (by simp [Config.memSize]; omega) m hm) (by omega)

/-- Bytes written inside memory stand at their addresses, and no other address changes. -/
theorem writeBytes_get (m : Memory) (addr : Nat) (bs : List Byte) (x : Nat) (hm : Memory.wf m = true)
    (h : addr + bs.length ≤ 4096) :
    Memory.get (writeBytes m addr bs) x =
      if addr ≤ x ∧ x < addr + bs.length then bs.getD (x - addr) 0 else Memory.get m x := by
  induction bs generalizing m addr with
  | nil =>
    have : ¬(addr ≤ x ∧ x < addr) := by omega
    simp [writeBytes, this]
  | cons b bs ih =>
    simp only [List.length_cons] at h
    have hset := Memory.wf_set b (by simp [Config.memSize]; omega : addr < Config.memSize) m hm
    rw [writeBytes, ih _ _ hset (by omega), Memory.get_set _ _ _ _ hm]
    by_cases hx : x = addr
    · subst hx; simp
    · by_cases hin : addr + 1 ≤ x ∧ x < addr + 1 + bs.length
      · have h1 : addr ≤ x ∧ x < addr + (bs.length + 1) := by omega
        have h2 : x - addr = (x - (addr + 1)) + 1 := by omega
        simp only [hin, and_self, if_true, List.length_cons, h1, h2, List.getD_cons_succ]
      · have h1 : ¬(addr ≤ x ∧ x < addr + (bs.length + 1)) := by omega
        simp only [hin, if_false, List.length_cons, h1, hx]

/-! ### The access primitives -/

/-- `MemRead`: what it answers, in range or not (20_memory.md R61, R62). -/
theorem memRead_cases (m : Memory) (addr n : Nat) :
    ((n = 0 ∨ addr + n ≤ 4096) ∧ memRead m addr n = .ok (readBytes m addr n))
      ∨ (¬(n = 0 ∨ addr + n ≤ 4096) ∧ memRead m addr n = .error (.outOfBounds (max addr 4096))) := by
  by_cases h : n = 0 ∨ addr + n ≤ 4096
  · left; exact ⟨h, by simp [memRead, (inRange_iff addr n).2 h]⟩
  · right
    have : inRange addr n = false := by
      cases hr : inRange addr n
      · rfl
      · exact absurd ((inRange_iff addr n).1 hr) h
    exact ⟨h, by simp [memRead, this, outOfRange, Config.memSize]⟩

/-- `MemWrite`: what it answers, in range or not (20_memory.md R61, R63). -/
theorem memWrite_cases (m : Memory) (addr : Nat) (bs : List Byte) :
    ((bs = [] ∨ addr + bs.length ≤ 4096) ∧ memWrite m addr bs = .ok (writeBytes m addr bs))
      ∨ (¬(bs = [] ∨ addr + bs.length ≤ 4096)
          ∧ memWrite m addr bs = .error (.outOfBounds (max addr 4096))) := by
  have hl : bs.length = 0 ↔ bs = [] := List.length_eq_zero_iff
  by_cases h : bs = [] ∨ addr + bs.length ≤ 4096
  · left
    exact ⟨h, by simp [memWrite, (inRange_iff addr bs.length).2 (by rwa [hl])]⟩
  · right
    have : inRange addr bs.length = false := by
      cases hr : inRange addr bs.length
      · rfl
      · exact absurd ((inRange_iff addr bs.length).1 hr) (by rwa [hl])
    exact ⟨h, by simp [memWrite, this, outOfRange, Config.memSize]⟩

end Sys2Proof.Machine
end

