-- ==== Sys2Proof/Laws/State.lean ====
section
/-! SUPPORT. One lemma per field per named update of State, true by rfl, so that no later proof unfolds a
record update; and what reading a register gives after each update. -/
namespace Sys2Proof.Machine

variable (s : State)

/-! ### setReg -/

@[simp] theorem State.setReg_v (x : Reg) (b : Byte) : (s.setReg x b).v = s.v.set x b := rfl
@[simp] theorem State.setReg_i (x : Reg) (b : Byte) : (s.setReg x b).i = s.i := rfl
@[simp] theorem State.setReg_pc (x : Reg) (b : Byte) : (s.setReg x b).pc = s.pc := rfl
@[simp] theorem State.setReg_dt (x : Reg) (b : Byte) : (s.setReg x b).dt = s.dt := rfl
@[simp] theorem State.setReg_st (x : Reg) (b : Byte) : (s.setReg x b).st = s.st := rfl
@[simp] theorem State.setReg_stack (x : Reg) (b : Byte) : (s.setReg x b).stack = s.stack := rfl
@[simp] theorem State.setReg_sp (x : Reg) (b : Byte) : (s.setReg x b).sp = s.sp := rfl
@[simp] theorem State.setReg_mem (x : Reg) (b : Byte) : (s.setReg x b).mem = s.mem := rfl
@[simp] theorem State.setReg_fb (x : Reg) (b : Byte) : (s.setReg x b).fb = s.fb := rfl
@[simp] theorem State.setReg_run (x : Reg) (b : Byte) : (s.setReg x b).run = s.run := rfl
@[simp] theorem State.setReg_exitCode (x : Reg) (b : Byte) : (s.setReg x b).exitCode = s.exitCode := rfl
@[simp] theorem State.setReg_fault (x : Reg) (b : Byte) : (s.setReg x b).fault = s.fault := rfl
@[simp] theorem State.setReg_waitReg (x : Reg) (b : Byte) : (s.setReg x b).waitReg = s.waitReg := rfl
@[simp] theorem State.setReg_stackDepth (x : Reg) (b : Byte) : (s.setReg x b).stackDepth = s.stackDepth := rfl
@[simp] theorem State.setReg_font (x : Reg) (b : Byte) : (s.setReg x b).font = s.font := rfl
@[simp] theorem State.setReg_contIn (x : Reg) (b : Byte) : (s.setReg x b).contIn = s.contIn := rfl
@[simp] theorem State.setReg_extTimer (x : Reg) (b : Byte) : (s.setReg x b).extTimer = s.extTimer := rfl
@[simp] theorem State.setReg_tickDue (x : Reg) (b : Byte) : (s.setReg x b).tickDue = s.tickDue := rfl
@[simp] theorem State.setReg_keyDown (x : Reg) (b : Byte) : (s.setReg x b).keyDown = s.keyDown := rfl
@[simp] theorem State.setReg_rndIn (x : Reg) (b : Byte) : (s.setReg x b).rndIn = s.rndIn := rfl
@[simp] theorem State.setReg_host (x : Reg) (b : Byte) : (s.setReg x b).host = s.host := rfl
@[simp] theorem State.setReg_pulses (x : Reg) (b : Byte) : (s.setReg x b).pulses = s.pulses := rfl
@[simp] theorem State.setReg_freeCtr (x : Reg) (b : Byte) : (s.setReg x b).freeCtr = s.freeCtr := rfl

/-! ### setI -/

@[simp] theorem State.setI_v (w : Word) : (s.setI w).v = s.v := rfl
@[simp] theorem State.setI_i (w : Word) : (s.setI w).i = w &&& Config.iMask := rfl
@[simp] theorem State.setI_pc (w : Word) : (s.setI w).pc = s.pc := rfl
@[simp] theorem State.setI_dt (w : Word) : (s.setI w).dt = s.dt := rfl
@[simp] theorem State.setI_st (w : Word) : (s.setI w).st = s.st := rfl
@[simp] theorem State.setI_stack (w : Word) : (s.setI w).stack = s.stack := rfl
@[simp] theorem State.setI_sp (w : Word) : (s.setI w).sp = s.sp := rfl
@[simp] theorem State.setI_mem (w : Word) : (s.setI w).mem = s.mem := rfl
@[simp] theorem State.setI_fb (w : Word) : (s.setI w).fb = s.fb := rfl
@[simp] theorem State.setI_run (w : Word) : (s.setI w).run = s.run := rfl
@[simp] theorem State.setI_exitCode (w : Word) : (s.setI w).exitCode = s.exitCode := rfl
@[simp] theorem State.setI_fault (w : Word) : (s.setI w).fault = s.fault := rfl
@[simp] theorem State.setI_waitReg (w : Word) : (s.setI w).waitReg = s.waitReg := rfl
@[simp] theorem State.setI_stackDepth (w : Word) : (s.setI w).stackDepth = s.stackDepth := rfl
@[simp] theorem State.setI_font (w : Word) : (s.setI w).font = s.font := rfl
@[simp] theorem State.setI_contIn (w : Word) : (s.setI w).contIn = s.contIn := rfl
@[simp] theorem State.setI_extTimer (w : Word) : (s.setI w).extTimer = s.extTimer := rfl
@[simp] theorem State.setI_tickDue (w : Word) : (s.setI w).tickDue = s.tickDue := rfl
@[simp] theorem State.setI_keyDown (w : Word) : (s.setI w).keyDown = s.keyDown := rfl
@[simp] theorem State.setI_rndIn (w : Word) : (s.setI w).rndIn = s.rndIn := rfl
@[simp] theorem State.setI_host (w : Word) : (s.setI w).host = s.host := rfl
@[simp] theorem State.setI_pulses (w : Word) : (s.setI w).pulses = s.pulses := rfl
@[simp] theorem State.setI_freeCtr (w : Word) : (s.setI w).freeCtr = s.freeCtr := rfl

/-! ### setPc -/

@[simp] theorem State.setPc_v (w : Word) : (s.setPc w).v = s.v := rfl
@[simp] theorem State.setPc_i (w : Word) : (s.setPc w).i = s.i := rfl
@[simp] theorem State.setPc_pc (w : Word) : (s.setPc w).pc = w := rfl
@[simp] theorem State.setPc_dt (w : Word) : (s.setPc w).dt = s.dt := rfl
@[simp] theorem State.setPc_st (w : Word) : (s.setPc w).st = s.st := rfl
@[simp] theorem State.setPc_stack (w : Word) : (s.setPc w).stack = s.stack := rfl
@[simp] theorem State.setPc_sp (w : Word) : (s.setPc w).sp = s.sp := rfl
@[simp] theorem State.setPc_mem (w : Word) : (s.setPc w).mem = s.mem := rfl
@[simp] theorem State.setPc_fb (w : Word) : (s.setPc w).fb = s.fb := rfl
@[simp] theorem State.setPc_run (w : Word) : (s.setPc w).run = s.run := rfl
@[simp] theorem State.setPc_exitCode (w : Word) : (s.setPc w).exitCode = s.exitCode := rfl
@[simp] theorem State.setPc_fault (w : Word) : (s.setPc w).fault = s.fault := rfl
@[simp] theorem State.setPc_waitReg (w : Word) : (s.setPc w).waitReg = s.waitReg := rfl
@[simp] theorem State.setPc_stackDepth (w : Word) : (s.setPc w).stackDepth = s.stackDepth := rfl
@[simp] theorem State.setPc_font (w : Word) : (s.setPc w).font = s.font := rfl
@[simp] theorem State.setPc_contIn (w : Word) : (s.setPc w).contIn = s.contIn := rfl
@[simp] theorem State.setPc_extTimer (w : Word) : (s.setPc w).extTimer = s.extTimer := rfl
@[simp] theorem State.setPc_tickDue (w : Word) : (s.setPc w).tickDue = s.tickDue := rfl
@[simp] theorem State.setPc_keyDown (w : Word) : (s.setPc w).keyDown = s.keyDown := rfl
@[simp] theorem State.setPc_rndIn (w : Word) : (s.setPc w).rndIn = s.rndIn := rfl
@[simp] theorem State.setPc_host (w : Word) : (s.setPc w).host = s.host := rfl
@[simp] theorem State.setPc_pulses (w : Word) : (s.setPc w).pulses = s.pulses := rfl
@[simp] theorem State.setPc_freeCtr (w : Word) : (s.setPc w).freeCtr = s.freeCtr := rfl

/-! ### setDt -/

@[simp] theorem State.setDt_v (b : Byte) : (s.setDt b).v = s.v := rfl
@[simp] theorem State.setDt_i (b : Byte) : (s.setDt b).i = s.i := rfl
@[simp] theorem State.setDt_pc (b : Byte) : (s.setDt b).pc = s.pc := rfl
@[simp] theorem State.setDt_dt (b : Byte) : (s.setDt b).dt = b := rfl
@[simp] theorem State.setDt_st (b : Byte) : (s.setDt b).st = s.st := rfl
@[simp] theorem State.setDt_stack (b : Byte) : (s.setDt b).stack = s.stack := rfl
@[simp] theorem State.setDt_sp (b : Byte) : (s.setDt b).sp = s.sp := rfl
@[simp] theorem State.setDt_mem (b : Byte) : (s.setDt b).mem = s.mem := rfl
@[simp] theorem State.setDt_fb (b : Byte) : (s.setDt b).fb = s.fb := rfl
@[simp] theorem State.setDt_run (b : Byte) : (s.setDt b).run = s.run := rfl
@[simp] theorem State.setDt_exitCode (b : Byte) : (s.setDt b).exitCode = s.exitCode := rfl
@[simp] theorem State.setDt_fault (b : Byte) : (s.setDt b).fault = s.fault := rfl
@[simp] theorem State.setDt_waitReg (b : Byte) : (s.setDt b).waitReg = s.waitReg := rfl
@[simp] theorem State.setDt_stackDepth (b : Byte) : (s.setDt b).stackDepth = s.stackDepth := rfl
@[simp] theorem State.setDt_font (b : Byte) : (s.setDt b).font = s.font := rfl
@[simp] theorem State.setDt_contIn (b : Byte) : (s.setDt b).contIn = s.contIn := rfl
@[simp] theorem State.setDt_extTimer (b : Byte) : (s.setDt b).extTimer = s.extTimer := rfl
@[simp] theorem State.setDt_tickDue (b : Byte) : (s.setDt b).tickDue = s.tickDue := rfl
@[simp] theorem State.setDt_keyDown (b : Byte) : (s.setDt b).keyDown = s.keyDown := rfl
@[simp] theorem State.setDt_rndIn (b : Byte) : (s.setDt b).rndIn = s.rndIn := rfl
@[simp] theorem State.setDt_host (b : Byte) : (s.setDt b).host = s.host := rfl
@[simp] theorem State.setDt_pulses (b : Byte) : (s.setDt b).pulses = s.pulses := rfl
@[simp] theorem State.setDt_freeCtr (b : Byte) : (s.setDt b).freeCtr = s.freeCtr := rfl

/-! ### setSt -/

@[simp] theorem State.setSt_v (b : Byte) : (s.setSt b).v = s.v := rfl
@[simp] theorem State.setSt_i (b : Byte) : (s.setSt b).i = s.i := rfl
@[simp] theorem State.setSt_pc (b : Byte) : (s.setSt b).pc = s.pc := rfl
@[simp] theorem State.setSt_dt (b : Byte) : (s.setSt b).dt = s.dt := rfl
@[simp] theorem State.setSt_st (b : Byte) : (s.setSt b).st = b := rfl
@[simp] theorem State.setSt_stack (b : Byte) : (s.setSt b).stack = s.stack := rfl
@[simp] theorem State.setSt_sp (b : Byte) : (s.setSt b).sp = s.sp := rfl
@[simp] theorem State.setSt_mem (b : Byte) : (s.setSt b).mem = s.mem := rfl
@[simp] theorem State.setSt_fb (b : Byte) : (s.setSt b).fb = s.fb := rfl
@[simp] theorem State.setSt_run (b : Byte) : (s.setSt b).run = s.run := rfl
@[simp] theorem State.setSt_exitCode (b : Byte) : (s.setSt b).exitCode = s.exitCode := rfl
@[simp] theorem State.setSt_fault (b : Byte) : (s.setSt b).fault = s.fault := rfl
@[simp] theorem State.setSt_waitReg (b : Byte) : (s.setSt b).waitReg = s.waitReg := rfl
@[simp] theorem State.setSt_stackDepth (b : Byte) : (s.setSt b).stackDepth = s.stackDepth := rfl
@[simp] theorem State.setSt_font (b : Byte) : (s.setSt b).font = s.font := rfl
@[simp] theorem State.setSt_contIn (b : Byte) : (s.setSt b).contIn = s.contIn := rfl
@[simp] theorem State.setSt_extTimer (b : Byte) : (s.setSt b).extTimer = s.extTimer := rfl
@[simp] theorem State.setSt_tickDue (b : Byte) : (s.setSt b).tickDue = s.tickDue := rfl
@[simp] theorem State.setSt_keyDown (b : Byte) : (s.setSt b).keyDown = s.keyDown := rfl
@[simp] theorem State.setSt_rndIn (b : Byte) : (s.setSt b).rndIn = s.rndIn := rfl
@[simp] theorem State.setSt_host (b : Byte) : (s.setSt b).host = s.host := rfl
@[simp] theorem State.setSt_pulses (b : Byte) : (s.setSt b).pulses = s.pulses := rfl
@[simp] theorem State.setSt_freeCtr (b : Byte) : (s.setSt b).freeCtr = s.freeCtr := rfl

/-! ### setRun -/

@[simp] theorem State.setRun_v (r : RunState) : (s.setRun r).v = s.v := rfl
@[simp] theorem State.setRun_i (r : RunState) : (s.setRun r).i = s.i := rfl
@[simp] theorem State.setRun_pc (r : RunState) : (s.setRun r).pc = s.pc := rfl
@[simp] theorem State.setRun_dt (r : RunState) : (s.setRun r).dt = s.dt := rfl
@[simp] theorem State.setRun_st (r : RunState) : (s.setRun r).st = s.st := rfl
@[simp] theorem State.setRun_stack (r : RunState) : (s.setRun r).stack = s.stack := rfl
@[simp] theorem State.setRun_sp (r : RunState) : (s.setRun r).sp = s.sp := rfl
@[simp] theorem State.setRun_mem (r : RunState) : (s.setRun r).mem = s.mem := rfl
@[simp] theorem State.setRun_fb (r : RunState) : (s.setRun r).fb = s.fb := rfl
@[simp] theorem State.setRun_run (r : RunState) : (s.setRun r).run = r := rfl
@[simp] theorem State.setRun_exitCode (r : RunState) : (s.setRun r).exitCode = s.exitCode := rfl
@[simp] theorem State.setRun_fault (r : RunState) : (s.setRun r).fault = s.fault := rfl
@[simp] theorem State.setRun_waitReg (r : RunState) : (s.setRun r).waitReg = s.waitReg := rfl
@[simp] theorem State.setRun_stackDepth (r : RunState) : (s.setRun r).stackDepth = s.stackDepth := rfl
@[simp] theorem State.setRun_font (r : RunState) : (s.setRun r).font = s.font := rfl
@[simp] theorem State.setRun_contIn (r : RunState) : (s.setRun r).contIn = s.contIn := rfl
@[simp] theorem State.setRun_extTimer (r : RunState) : (s.setRun r).extTimer = s.extTimer := rfl
@[simp] theorem State.setRun_tickDue (r : RunState) : (s.setRun r).tickDue = s.tickDue := rfl
@[simp] theorem State.setRun_keyDown (r : RunState) : (s.setRun r).keyDown = s.keyDown := rfl
@[simp] theorem State.setRun_rndIn (r : RunState) : (s.setRun r).rndIn = s.rndIn := rfl
@[simp] theorem State.setRun_host (r : RunState) : (s.setRun r).host = s.host := rfl
@[simp] theorem State.setRun_pulses (r : RunState) : (s.setRun r).pulses = s.pulses := rfl
@[simp] theorem State.setRun_freeCtr (r : RunState) : (s.setRun r).freeCtr = s.freeCtr := rfl

/-! ### setMem -/

@[simp] theorem State.setMem_v (m : Memory) : (s.setMem m).v = s.v := rfl
@[simp] theorem State.setMem_i (m : Memory) : (s.setMem m).i = s.i := rfl
@[simp] theorem State.setMem_pc (m : Memory) : (s.setMem m).pc = s.pc := rfl
@[simp] theorem State.setMem_dt (m : Memory) : (s.setMem m).dt = s.dt := rfl
@[simp] theorem State.setMem_st (m : Memory) : (s.setMem m).st = s.st := rfl
@[simp] theorem State.setMem_stack (m : Memory) : (s.setMem m).stack = s.stack := rfl
@[simp] theorem State.setMem_sp (m : Memory) : (s.setMem m).sp = s.sp := rfl
@[simp] theorem State.setMem_mem (m : Memory) : (s.setMem m).mem = m := rfl
@[simp] theorem State.setMem_fb (m : Memory) : (s.setMem m).fb = s.fb := rfl
@[simp] theorem State.setMem_run (m : Memory) : (s.setMem m).run = s.run := rfl
@[simp] theorem State.setMem_exitCode (m : Memory) : (s.setMem m).exitCode = s.exitCode := rfl
@[simp] theorem State.setMem_fault (m : Memory) : (s.setMem m).fault = s.fault := rfl
@[simp] theorem State.setMem_waitReg (m : Memory) : (s.setMem m).waitReg = s.waitReg := rfl
@[simp] theorem State.setMem_stackDepth (m : Memory) : (s.setMem m).stackDepth = s.stackDepth := rfl
@[simp] theorem State.setMem_font (m : Memory) : (s.setMem m).font = s.font := rfl
@[simp] theorem State.setMem_contIn (m : Memory) : (s.setMem m).contIn = s.contIn := rfl
@[simp] theorem State.setMem_extTimer (m : Memory) : (s.setMem m).extTimer = s.extTimer := rfl
@[simp] theorem State.setMem_tickDue (m : Memory) : (s.setMem m).tickDue = s.tickDue := rfl
@[simp] theorem State.setMem_keyDown (m : Memory) : (s.setMem m).keyDown = s.keyDown := rfl
@[simp] theorem State.setMem_rndIn (m : Memory) : (s.setMem m).rndIn = s.rndIn := rfl
@[simp] theorem State.setMem_host (m : Memory) : (s.setMem m).host = s.host := rfl
@[simp] theorem State.setMem_pulses (m : Memory) : (s.setMem m).pulses = s.pulses := rfl
@[simp] theorem State.setMem_freeCtr (m : Memory) : (s.setMem m).freeCtr = s.freeCtr := rfl

/-! ### setFb -/

@[simp] theorem State.setFb_v (p : Plane) : (s.setFb p).v = s.v := rfl
@[simp] theorem State.setFb_i (p : Plane) : (s.setFb p).i = s.i := rfl
@[simp] theorem State.setFb_pc (p : Plane) : (s.setFb p).pc = s.pc := rfl
@[simp] theorem State.setFb_dt (p : Plane) : (s.setFb p).dt = s.dt := rfl
@[simp] theorem State.setFb_st (p : Plane) : (s.setFb p).st = s.st := rfl
@[simp] theorem State.setFb_stack (p : Plane) : (s.setFb p).stack = s.stack := rfl
@[simp] theorem State.setFb_sp (p : Plane) : (s.setFb p).sp = s.sp := rfl
@[simp] theorem State.setFb_mem (p : Plane) : (s.setFb p).mem = s.mem := rfl
@[simp] theorem State.setFb_fb (p : Plane) : (s.setFb p).fb = p := rfl
@[simp] theorem State.setFb_run (p : Plane) : (s.setFb p).run = s.run := rfl
@[simp] theorem State.setFb_exitCode (p : Plane) : (s.setFb p).exitCode = s.exitCode := rfl
@[simp] theorem State.setFb_fault (p : Plane) : (s.setFb p).fault = s.fault := rfl
@[simp] theorem State.setFb_waitReg (p : Plane) : (s.setFb p).waitReg = s.waitReg := rfl
@[simp] theorem State.setFb_stackDepth (p : Plane) : (s.setFb p).stackDepth = s.stackDepth := rfl
@[simp] theorem State.setFb_font (p : Plane) : (s.setFb p).font = s.font := rfl
@[simp] theorem State.setFb_contIn (p : Plane) : (s.setFb p).contIn = s.contIn := rfl
@[simp] theorem State.setFb_extTimer (p : Plane) : (s.setFb p).extTimer = s.extTimer := rfl
@[simp] theorem State.setFb_tickDue (p : Plane) : (s.setFb p).tickDue = s.tickDue := rfl
@[simp] theorem State.setFb_keyDown (p : Plane) : (s.setFb p).keyDown = s.keyDown := rfl
@[simp] theorem State.setFb_rndIn (p : Plane) : (s.setFb p).rndIn = s.rndIn := rfl
@[simp] theorem State.setFb_host (p : Plane) : (s.setFb p).host = s.host := rfl
@[simp] theorem State.setFb_pulses (p : Plane) : (s.setFb p).pulses = s.pulses := rfl
@[simp] theorem State.setFb_freeCtr (p : Plane) : (s.setFb p).freeCtr = s.freeCtr := rfl

/-! ### pulse -/

@[simp] theorem State.pulse_v (p : Pulse) : (s.pulse p).v = s.v := rfl
@[simp] theorem State.pulse_i (p : Pulse) : (s.pulse p).i = s.i := rfl
@[simp] theorem State.pulse_pc (p : Pulse) : (s.pulse p).pc = s.pc := rfl
@[simp] theorem State.pulse_dt (p : Pulse) : (s.pulse p).dt = s.dt := rfl
@[simp] theorem State.pulse_st (p : Pulse) : (s.pulse p).st = s.st := rfl
@[simp] theorem State.pulse_stack (p : Pulse) : (s.pulse p).stack = s.stack := rfl
@[simp] theorem State.pulse_sp (p : Pulse) : (s.pulse p).sp = s.sp := rfl
@[simp] theorem State.pulse_mem (p : Pulse) : (s.pulse p).mem = s.mem := rfl
@[simp] theorem State.pulse_fb (p : Pulse) : (s.pulse p).fb = s.fb := rfl
@[simp] theorem State.pulse_run (p : Pulse) : (s.pulse p).run = s.run := rfl
@[simp] theorem State.pulse_exitCode (p : Pulse) : (s.pulse p).exitCode = s.exitCode := rfl
@[simp] theorem State.pulse_fault (p : Pulse) : (s.pulse p).fault = s.fault := rfl
@[simp] theorem State.pulse_waitReg (p : Pulse) : (s.pulse p).waitReg = s.waitReg := rfl
@[simp] theorem State.pulse_stackDepth (p : Pulse) : (s.pulse p).stackDepth = s.stackDepth := rfl
@[simp] theorem State.pulse_font (p : Pulse) : (s.pulse p).font = s.font := rfl
@[simp] theorem State.pulse_contIn (p : Pulse) : (s.pulse p).contIn = s.contIn := rfl
@[simp] theorem State.pulse_extTimer (p : Pulse) : (s.pulse p).extTimer = s.extTimer := rfl
@[simp] theorem State.pulse_tickDue (p : Pulse) : (s.pulse p).tickDue = s.tickDue := rfl
@[simp] theorem State.pulse_keyDown (p : Pulse) : (s.pulse p).keyDown = s.keyDown := rfl
@[simp] theorem State.pulse_rndIn (p : Pulse) : (s.pulse p).rndIn = s.rndIn := rfl
@[simp] theorem State.pulse_host (p : Pulse) : (s.pulse p).host = s.host := rfl
@[simp] theorem State.pulse_pulses (p : Pulse) : (s.pulse p).pulses = s.pulses ++ [p] := rfl
@[simp] theorem State.pulse_freeCtr (p : Pulse) : (s.pulse p).freeCtr = s.freeCtr := rfl

/-! ### loadRegs -/

@[simp] theorem State.loadRegs_v (bs : List Byte) : (s.loadRegs bs).v = Vector.ofFn fun k => bs.getD k.val s.v[k] := rfl
@[simp] theorem State.loadRegs_i (bs : List Byte) : (s.loadRegs bs).i = s.i := rfl
@[simp] theorem State.loadRegs_pc (bs : List Byte) : (s.loadRegs bs).pc = s.pc := rfl
@[simp] theorem State.loadRegs_dt (bs : List Byte) : (s.loadRegs bs).dt = s.dt := rfl
@[simp] theorem State.loadRegs_st (bs : List Byte) : (s.loadRegs bs).st = s.st := rfl
@[simp] theorem State.loadRegs_stack (bs : List Byte) : (s.loadRegs bs).stack = s.stack := rfl
@[simp] theorem State.loadRegs_sp (bs : List Byte) : (s.loadRegs bs).sp = s.sp := rfl
@[simp] theorem State.loadRegs_mem (bs : List Byte) : (s.loadRegs bs).mem = s.mem := rfl
@[simp] theorem State.loadRegs_fb (bs : List Byte) : (s.loadRegs bs).fb = s.fb := rfl
@[simp] theorem State.loadRegs_run (bs : List Byte) : (s.loadRegs bs).run = s.run := rfl
@[simp] theorem State.loadRegs_exitCode (bs : List Byte) : (s.loadRegs bs).exitCode = s.exitCode := rfl
@[simp] theorem State.loadRegs_fault (bs : List Byte) : (s.loadRegs bs).fault = s.fault := rfl
@[simp] theorem State.loadRegs_waitReg (bs : List Byte) : (s.loadRegs bs).waitReg = s.waitReg := rfl
@[simp] theorem State.loadRegs_stackDepth (bs : List Byte) : (s.loadRegs bs).stackDepth = s.stackDepth := rfl
@[simp] theorem State.loadRegs_font (bs : List Byte) : (s.loadRegs bs).font = s.font := rfl
@[simp] theorem State.loadRegs_contIn (bs : List Byte) : (s.loadRegs bs).contIn = s.contIn := rfl
@[simp] theorem State.loadRegs_extTimer (bs : List Byte) : (s.loadRegs bs).extTimer = s.extTimer := rfl
@[simp] theorem State.loadRegs_tickDue (bs : List Byte) : (s.loadRegs bs).tickDue = s.tickDue := rfl
@[simp] theorem State.loadRegs_keyDown (bs : List Byte) : (s.loadRegs bs).keyDown = s.keyDown := rfl
@[simp] theorem State.loadRegs_rndIn (bs : List Byte) : (s.loadRegs bs).rndIn = s.rndIn := rfl
@[simp] theorem State.loadRegs_host (bs : List Byte) : (s.loadRegs bs).host = s.host := rfl
@[simp] theorem State.loadRegs_pulses (bs : List Byte) : (s.loadRegs bs).pulses = s.pulses := rfl
@[simp] theorem State.loadRegs_freeCtr (bs : List Byte) : (s.loadRegs bs).freeCtr = s.freeCtr := rfl

/-! ### Reading a register -/

@[simp] theorem State.reg_setReg_same (x : Reg) (b : Byte) : (s.setReg x b).reg x = b := by
  simp [State.reg, State.setReg]

theorem State.reg_setReg_other (x r : Reg) (b : Byte) (h : r ≠ x) : (s.setReg x b).reg r = s.reg r := by
  have hv : x.val ≠ r.val := fun e => h (Fin.ext e.symm)
  simp [State.reg, State.setReg, hv]

theorem State.reg_setReg (x r : Reg) (b : Byte) :
    (s.setReg x b).reg r = if r = x then b else s.reg r := by
  by_cases h : r = x
  · subst h; simp
  · simp [h, State.reg_setReg_other]

@[simp] theorem State.reg_loadRegs (bs : List Byte) (r : Reg) :
    (s.loadRegs bs).reg r = bs.getD r.val (s.reg r) := by
  simp [State.reg, State.loadRegs]

@[simp] theorem State.reg_setI (w : Word) (x : Reg) : (s.setI w).reg x = s.reg x := rfl
@[simp] theorem State.reg_setPc (w : Word) (x : Reg) : (s.setPc w).reg x = s.reg x := rfl
@[simp] theorem State.reg_setDt (b : Byte) (x : Reg) : (s.setDt b).reg x = s.reg x := rfl
@[simp] theorem State.reg_setSt (b : Byte) (x : Reg) : (s.setSt b).reg x = s.reg x := rfl
@[simp] theorem State.reg_setRun (r : RunState) (x : Reg) : (s.setRun r).reg x = s.reg x := rfl
@[simp] theorem State.reg_setMem (m : Memory) (x : Reg) : (s.setMem m).reg x = s.reg x := rfl
@[simp] theorem State.reg_setFb (p : Plane) (x : Reg) : (s.setFb p).reg x = s.reg x := rfl
@[simp] theorem State.reg_pulse (p : Pulse) (x : Reg) : (s.pulse p).reg x = s.reg x := rfl

end Sys2Proof.Machine
end

