-- ==== Sys2Proof/Laws/Ops.lean ====
section
/-! SUPPORT. One lemma for each shared operation that says once everything it can do. -/
namespace Sys2Proof.Machine

/-! ### Raising -/

@[simp] theorem raise_run (f : Fault) (op : Word) (s : State) : (raise f op s).run = .haltedFault := rfl

/-- Raising changes `FAULT` and `RUN` and nothing else (60_exceptions.md R214). -/
theorem raise_eq (f : Fault) (op : Word) (s : State) :
    raise f op s = faulted s (faultKind f) op (faultAddr f s.instrAddr) := rfl

/-- An operation that may raise answers a next state either way. -/
theorem orRaise_cases {α : Type} (op : Word) (s : State) (r : Except Fault α) (rest : α → State) :
    (∃ a, r = .ok a ∧ orRaise op s r rest = .next (rest a))
      ∨ (∃ f, r = .error f ∧ orRaise op s r rest = .next (raise f op s)) := by
  cases r with
  | ok a => exact .inl ⟨a, rfl, rfl⟩
  | error f => exact .inr ⟨f, rfl, rfl⟩

/-! ### The call stack -/

/-- The slot written reads as written and the other slots are unchanged. -/
theorem setSlot_getD (l : List Word) (k j : Nat) (w : Word) :
    (setSlot l k w).getD j 0 = if j = k then w else l.getD j 0 := by
  induction l generalizing k j with
  | nil =>
    induction k generalizing j with
    | zero => cases j <;> simp [setSlot]
    | succ k ih =>
      cases j with
      | zero => simp [setSlot]
      | succ j => simpa [setSlot] using ih j
  | cons a l ih =>
    cases k with
    | zero => cases j <;> simp [setSlot]
    | succ k =>
      cases j with
      | zero => simp [setSlot]
      | succ j => simpa [setSlot] using ih k j

/-- Writing a slot lists the slots up to it. -/
theorem setSlot_length (l : List Word) (k : Nat) (w : Word) :
    (setSlot l k w).length = max l.length (k + 1) := by
  induction l generalizing k with
  | nil =>
    induction k with
    | zero => rfl
    | succ k ih => simp [setSlot, ih]
  | cons a l ih =>
    cases k with
    | zero => simp [setSlot]
    | succ k => simp [setSlot, ih]

/-- A slot that is listed afterwards was written, or listed before, or is a 0 put below the slot written. -/
theorem mem_setSlot {l : List Word} {k : Nat} {w a : Word} (h : a ∈ setSlot l k w) :
    a = w ∨ a = 0 ∨ a ∈ l := by
  induction l generalizing k with
  | nil =>
    induction k with
    | zero => simp [setSlot] at h; exact .inl h
    | succ k ih =>
      simp only [setSlot, List.mem_cons] at h
      rcases h with h | h
      · exact .inr (.inl h)
      · exact ih h
  | cons b l ih =>
    cases k with
    | zero =>
      simp only [setSlot, List.mem_cons] at h
      rcases h with h | h
      · exact .inl h
      · exact .inr (.inr (List.mem_cons_of_mem _ h))
    | succ k =>
      simp only [setSlot, List.mem_cons] at h
      rcases h with h | h
      · exact .inr (.inr (h ▸ List.mem_cons_self))
      · rcases ih h with h | h | h
        · exact .inl h
        · exact .inr (.inl h)
        · exact .inr (.inr (List.mem_cons_of_mem _ h))

/-- `Push`: a full stack raises, any other takes the value in its next slot (10_state.md R25). -/
theorem push_cases (w : Word) (s : State) :
    (s.stackFull = true ∧ push w s = .error .stackOverflow)
      ∨ (s.stackFull = false
          ∧ push w s = .ok { s with stack := setSlot s.stack s.sp w, sp := s.sp + 1 }) := by
  cases h : s.stackFull
  · exact .inr ⟨rfl, by simp [push, h]⟩
  · exact .inl ⟨rfl, by simp [push, h]⟩

/-- `Pop`: an empty stack raises, any other gives its top slot (10_state.md R26). -/
theorem pop_cases (s : State) :
    (s.sp = 0 ∧ pop s = .error .stackUnderflow)
      ∨ (s.sp ≠ 0 ∧ pop s = .ok (s.slot (s.sp - 1), { s with sp := s.sp - 1 })) := by
  by_cases h : s.sp = 0
  · exact .inl ⟨h, by simp [pop, h]⟩
  · exact .inr ⟨h, by simp [pop, h]⟩

/-! ### The timers, the poll and the inputs -/

/-- A timer's count after a tick, floored at zero (35_instruction_cycle.md R120). -/
theorem countDown_toNat (t : Byte) : (countDown t).toNat = t.toNat - 1 := by
  unfold countDown
  by_cases h : t = 0
  · simp [h]
  · have h0 : t.toNat ≠ 0 := fun e => h (BitVec.eq_of_toNat_eq e)
    have := t.isLt
    simp only [h, if_false, BitVec.toNat_sub]
    simp
    omega

/-- A tick beeps exactly when the sound timer was non-zero (35_instruction_cycle.md R120). -/
theorem beep_mem_beeps (s : State) : Pulse.beep ∈ beeps s ↔ s.st ≠ 0 := by
  unfold beeps; by_cases h : s.st = 0 <;> simp [h]

/-- The timer service is a tick with its acknowledgement, or nothing. -/
theorem timerService_cases (s : State) :
    (s.extTimer = false ∧ s.tickDue = true ∧ timerService s = (tick s).pulse .tickAck)
      ∨ (¬(s.extTimer = false ∧ s.tickDue = true) ∧ timerService s = s) := by
  cases he : s.extTimer <;> cases ht : s.tickDue <;> simp [timerService, he, ht]

/-- The poll leaves a state alone, ends a run or ends a key wait (35_instruction_cycle.md R118). -/
theorem poll_cases (s : State) :
    poll s = s
      ∨ (s.contIn = false ∧ s.run = .running ∧ poll s = s.setRun .haltedExternal)
      ∨ (s.contIn = false ∧ s.run = .waitKey ∧ poll s = cancelWait s) := by
  cases hc : s.contIn <;> cases hr : s.run <;> simp [poll, hc, hr]

theorem poll_of_continue (s : State) (h : s.contIn = true) : poll s = s := by simp [poll, h]

/-- The poll of a key wait with `CONTINUE` = 0 cancels it (45_timer_key.md R195). -/
theorem poll_of_waitKey (s : State) (hr : s.run = .waitKey) (hc : s.contIn = false) :
    poll s = cancelWait s := by simp [poll, hr, hc]

/-- A cancelled key wait writes only its register, `RUN` and the counter of free values. -/
theorem cancelWait_eq (s : State) :
    cancelWait s = { s with
      v := (cancelWait s).v, run := .haltedExternal, freeCtr := (cancelWait s).freeCtr } := rfl

/-- A sample of `RND_IN` is the next byte scheduled, or a free value. -/
theorem sampleRnd_cases (s : State) :
    (∃ b rest, s.rndIn = b :: rest ∧ sampleRnd s = (b, { s with rndIn := rest }))
      ∨ (s.rndIn = [] ∧ sampleRnd s = (Config.rndSample s.freeCtr, { s with freeCtr := s.freeCtr + 1 })) := by
  cases h : s.rndIn with
  | nil => exact .inr ⟨rfl, by simp [sampleRnd, h]⟩
  | cons b rest => exact .inl ⟨b, rest, rfl, by simp [sampleRnd, h]⟩

/-- The fetch: the two bytes at `PC`, or OutOfBounds when the second is not in memory
(35_instruction_cycle.md R114). -/
theorem fetch_cases (s : State) :
    (s.pc.toNat + 1 < 4096
        ∧ fetch s = .ok (opcodeOf (Memory.get s.mem s.pc.toNat) (Memory.get s.mem (s.pc.toNat + 1))))
      ∨ (¬s.pc.toNat + 1 < 4096 ∧ fetch s = .error (.outOfBounds (max s.pc.toNat 4096))) := by
  rcases memRead_cases s.mem s.pc.toNat 2 with ⟨h, e⟩ | ⟨h, e⟩
  · left
    exact ⟨by omega, by simp [fetch, Config.instrBytes, e, readBytes]⟩
  · right
    exact ⟨by omega, by simp [fetch, Config.instrBytes, e]⟩

/-- Every write of `I` leaves a 12-bit address in it (10_state.md R14). -/
theorem setI_i_lt (s : State) (w : Word) : (s.setI w).i.toNat < 0x1000 := by
  have h : (w &&& Config.iMask).toNat ≤ Config.iMask.toNat := by
    rw [BitVec.toNat_and]; exact Nat.and_le_right
  have hm : Config.iMask.toNat = 0xFFF := rfl
  rw [State.setI_i]; omega

/-- The mask of `I` is reduction modulo 0x1000. -/
theorem setI_i_toNat (s : State) (w : Word) : (s.setI w).i.toNat = w.toNat % 0x1000 := by
  have hm : Config.iMask.toNat = 2 ^ 12 - 1 := rfl
  rw [State.setI_i, BitVec.toNat_and, hm, Nat.and_two_pow_sub_one_eq_mod]

/-! ### The display plane -/

/-- Toggling a cell flips it and leaves every other cell alone. -/
theorem cell_toggle (p : Plane) (y y' : Fin 32) (x x' : Fin 64) :
    Plane.cell (Plane.toggle p y x) y' x' = (Plane.cell p y' x' ^^ decide (y' = y ∧ x' = x)) := by
  have hx := x.isLt
  have hx' := x'.isLt
  unfold Plane.cell Plane.toggle
  by_cases hy : y' = y
  · subst hy
    simp only [Fin.getElem_fin, Vector.getElem_set_self, true_and]
    simp only [BitVec.getMsbD, BitVec.getLsbD_xor, BitVec.getLsbD_twoPow]
    by_cases e : x' = x
    · subst e
      simp [show 63 - x'.val < 64 by omega]
    · have hne : 63 - x.val ≠ 64 - 1 - x'.val := fun h => e (Fin.ext (by omega))
      simp only [hne, e, decide_false, Bool.and_false, Bool.xor_false]
  · have hv : y.val ≠ y'.val := fun h => hy (Fin.ext h.symm)
    simp [hy, hv]

/-- Every cell of the cleared plane is unset. -/
@[simp] theorem cell_clear (y : Fin 32) (x : Fin 64) : Plane.cell Plane.clear y x = false := by
  simp [Plane.cell, Plane.clear]

/-- Two planes with the same cells are the same plane. -/
theorem plane_ext (p q : Plane) (h : ∀ y x, Plane.cell p y x = Plane.cell q y x) : p = q := by
  apply Vector.ext
  intro r hr
  apply BitVec.eq_of_getMsbD_eq
  intro c hc
  exact h ⟨r, hr⟩ ⟨c, hc⟩

/-! ### Sprites -/

@[simp] theorem rowPixels_length (b : Byte) : (rowPixels b).length = 8 := by
  simp [rowPixels, Config.spriteW]

theorem bitmapOf_cons (b : Byte) (rows : List Byte) :
    bitmapOf (b :: rows) = rowPixels b ++ bitmapOf rows := rfl

theorem bitmapOf_length (rows : List Byte) : (bitmapOf rows).length = 8 * rows.length := by
  induction rows with
  | nil => rfl
  | cons b rows ih => rw [bitmapOf_cons, List.length_append, rowPixels_length, ih, List.length_cons]; omega

/-- The pixel `(r, c)` of a bitmap is bit `7 - c` of the row's byte (44_display.md R182). -/
theorem bitmapOf_getD (rows : List Byte) (r c : Nat) (hr : r < rows.length) (hc : c < 8) :
    (bitmapOf rows).getD (r * 8 + c) false = (rows.getD r 0).getLsbD (7 - c) := by
  induction rows generalizing r with
  | nil => simp at hr
  | cons b rows ih =>
    cases r with
    | zero =>
      have hl : 0 * 8 + c < (rowPixels b).length := by rw [rowPixels_length]; omega
      rw [bitmapOf_cons, List.getD_append _ _ _ _ hl, List.getD_eq_getElem _ _ hl]
      simp [rowPixels, BitVec.getMsbD, hc]
    | succ r =>
      have hl : (rowPixels b).length ≤ (r + 1) * 8 + c := by rw [rowPixels_length]; omega
      have he : (r + 1) * 8 + c - 8 = r * 8 + c := by omega
      rw [bitmapOf_cons, List.getD_append_right _ _ _ _ hl, rowPixels_length, he,
        ih r (by simpa using hr)]
      rfl

/-- The pixels of a sprite are those of its rows and of eight columns. -/
theorem mem_spritePixels (h : Nat) (rc : Nat × Nat) : rc ∈ spritePixels h ↔ rc.1 < h ∧ rc.2 < 8 := by
  obtain ⟨r, c⟩ := rc
  simp only [spritePixels, Config.spriteW, List.mem_flatMap, List.mem_range, List.mem_map,
    Prod.mk.injEq]
  constructor
  · rintro ⟨r', hr, c', hc, rfl, rfl⟩; exact ⟨hr, hc⟩
  · rintro ⟨hr, hc⟩; exact ⟨r, hr, c, hc, rfl, rfl⟩

/-! ### Operands, results and flags -/

@[simp] theorem regsUpTo_length (s : State) (x : Reg) : (regsUpTo s x).length = x.val + 1 := by
  have := x.isLt
  simp [regsUpTo]

/-- The bytes of LDMW are the registers in order (43_index_memory.md R174). -/
theorem regsUpTo_getD (s : State) (x k : Reg) (h : k ≤ x) : (regsUpTo s x).getD k.val 0 = s.reg k := by
  have hk : k.val < (regsUpTo s x).length := by
    rw [regsUpTo_length]; exact Nat.lt_succ_of_le h
  rw [List.getD_eq_getElem _ _ hk]
  simp [regsUpTo, State.reg]

/-- A register write changes no other register. -/
theorem setReg_keepsOthers (s : State) (x : Reg) (b : Byte) : keepsOtherRegs s (s.setReg x b) [x] := by
  intro r hr
  exact State.reg_setReg_other s x r b (by simpa using hr)

/-- A cancelled key wait changes no other register (45_timer_key.md R195). -/
theorem cancelWait_keepsOthers (s : State) : keepsOtherRegs s (cancelWait s) [s.waitReg] :=
  setReg_keepsOthers s s.waitReg _

/-- Result, then flag: VF holds the flag, the destination the result unless it is VF (42_alu.md R150). -/
theorem resultThenFlag_reg (x r : Reg) (b f : Byte) (s : State) :
    (resultThenFlag x b f s).reg r = if r = vf then f else if r = x then b else s.reg r := by
  simp [resultThenFlag, State.reg_setReg]

/-- Flag, then result: the destination holds the result, VF the flag unless it is the destination
(42_alu.md R150). -/
theorem flagThenResult_reg (x r : Reg) (b f : Byte) (s : State) :
    (flagThenResult x b f s).reg r = if r = x then b else if r = vf then f else s.reg r := by
  simp [flagThenResult, State.reg_setReg]

theorem resultThenFlag_eq (x : Reg) (b f : Byte) (s : State) :
    resultThenFlag x b f s = { s with v := (resultThenFlag x b f s).v } := rfl

theorem flagThenResult_eq (x : Reg) (b f : Byte) (s : State) :
    flagThenResult x b f s = { s with v := (flagThenResult x b f s).v } := rfl

/-! ### Reset -/

/-- A reset keeps the canonical form of memory. -/
theorem resetCore_wf (s : State) (hm : Memory.wf s.mem = true) : Memory.wf (resetCore s).mem = true :=
  writeBytes_wf _ _ _ hm (by rw [Vector.length_toList]; decide)

/-- A reset writes the state's font at 0x1B0 and leaves every other byte (70_reset_and_hazards.md R241). -/
theorem resetCore_mem (s : State) (a : Nat) (hm : Memory.wf s.mem = true) :
    Memory.get (resetCore s).mem a =
      if 0x1B0 ≤ a ∧ a < 0x200 then s.font.toList.getD (a - 0x1B0) 0 else Memory.get s.mem a := by
  show Memory.get (writeBytes s.mem Config.fontBase s.font.toList) a = _
  rw [writeBytes_get _ _ _ _ hm (by rw [Vector.length_toList]; decide), Vector.length_toList]
  rfl

/-! ### Steps -/

/-- A step the host leaves to the engine is the engine's. -/
theorem step_of_leavesStep {s : State} {rest : List HostEvent} (h : leavesStep s rest) :
    step s = engineStep (stepStart s rest) := by
  rcases h with ⟨h, rfl⟩ | h
  · simp only [step, machineStep, h, stepStart]
  · simp only [step, machineStep, h, hostStep, stepStart]

/-- The timer service changes only the timers and the pulses (35_instruction_cycle.md R120). -/
theorem timerService_eq (s : State) :
    timerService s = { s with
      dt := (timerService s).dt, st := (timerService s).st, pulses := (timerService s).pulses } := by
  rcases timerService_cases s with ⟨_, _, e⟩ | ⟨_, e⟩ <;> rw [e]
  rfl

@[simp] theorem timerService_pc (s : State) : (timerService s).pc = s.pc := by rw [timerService_eq]
@[simp] theorem timerService_mem (s : State) : (timerService s).mem = s.mem := by rw [timerService_eq]
@[simp] theorem timerService_run (s : State) : (timerService s).run = s.run := by rw [timerService_eq]

/-- An execution followed by the poll answers the polled state. -/
theorem thenPoll_next (s : State) : thenPoll (.next s) = .next (poll s) := rfl

/-! ### Every meaning answers a next state -/

/-- No instruction stops the machine: executing one always answers a next state. -/
theorem exec_isNext (i : Instr) (s : State) : ∃ t, exec i s = .next t := by
  cases i with
  | ret => rcases orRaise_cases (encode .ret) s (pop s) (fun r => r.2.setPc r.1) with ⟨a, _, h⟩ | ⟨f, _, h⟩ <;> exact ⟨_, h⟩
  | call nnn => rcases push_cases s.pc s with ⟨_, h⟩ | ⟨_, h⟩ <;> exact ⟨_, by simp only [exec, execCall, h, orRaise]; rfl⟩
  | ldbc x => rcases memWrite_cases s.mem (effAddr s 0) (bcdDigits (s.reg x)) with ⟨_, h⟩ | ⟨_, h⟩ <;> exact ⟨_, by simp only [exec, execLdbc, h, orRaise]; rfl⟩
  | ldmw x => rcases memWrite_cases s.mem (effAddr s 0) (regsUpTo s x) with ⟨_, h⟩ | ⟨_, h⟩ <;> exact ⟨_, by simp only [exec, execLdmw, h, orRaise]; rfl⟩
  | ldmr x => rcases memRead_cases s.mem (effAddr s 0) (x.val + 1) with ⟨_, h⟩ | ⟨_, h⟩ <;> exact ⟨_, by simp only [exec, execLdmr, h, orRaise]; rfl⟩
  | drw x y n => rcases memRead_cases s.mem (effAddr s 0) n.val with ⟨_, h⟩ | ⟨_, h⟩ <;> exact ⟨_, by simp only [exec, execDrw, h, orRaise]; rfl⟩
  | _ => exact ⟨_, rfl⟩

end Sys2Proof.Machine
end

