-- ==== Sys2Proof/Laws/PerInstr.lean ====
section
/-! SUPPORT. The per-instruction family EncodedFields: the encoded word of an instruction carries its
leading literal and every argument in the bits that spec/opcode_table.json gives them. -/
namespace Sys2Proof.Laws.EncodedFields

/-- The word of `i` has the literals of its template and the arguments of `i` in its fields
(30_encoding.md R84, R86). -/
def Statement (i : Instr) : Prop :=
  match i with
  | .cls => encode .cls = 0x00E0
  | .ret => encode .ret = 0x00EE
  | .sys nnn => nib0 (encode (.sys nnn)) = 0x0 ∧ fieldNNN (encode (.sys nnn)) = nnn
  | .jp nnn => nib0 (encode (.jp nnn)) = 0x1 ∧ fieldNNN (encode (.jp nnn)) = nnn
  | .call nnn => nib0 (encode (.call nnn)) = 0x2 ∧ fieldNNN (encode (.call nnn)) = nnn
  | .se x kk =>
    nib0 (encode (.se x kk)) = 0x3
      ∧ fieldX (encode (.se x kk)) = x
      ∧ fieldKK (encode (.se x kk)) = kk
  | .sne x kk =>
    nib0 (encode (.sne x kk)) = 0x4
      ∧ fieldX (encode (.sne x kk)) = x
      ∧ fieldKK (encode (.sne x kk)) = kk
  | .sev x y =>
    nib0 (encode (.sev x y)) = 0x5
      ∧ fieldX (encode (.sev x y)) = x
      ∧ fieldY (encode (.sev x y)) = y
      ∧ fieldN (encode (.sev x y)) = 0x0
  | .ld x kk =>
    nib0 (encode (.ld x kk)) = 0x6
      ∧ fieldX (encode (.ld x kk)) = x
      ∧ fieldKK (encode (.ld x kk)) = kk
  | .add x kk =>
    nib0 (encode (.add x kk)) = 0x7
      ∧ fieldX (encode (.add x kk)) = x
      ∧ fieldKK (encode (.add x kk)) = kk
  | .ldv x y =>
    nib0 (encode (.ldv x y)) = 0x8
      ∧ fieldX (encode (.ldv x y)) = x
      ∧ fieldY (encode (.ldv x y)) = y
      ∧ fieldN (encode (.ldv x y)) = 0x0
  | .or x y =>
    nib0 (encode (.or x y)) = 0x8
      ∧ fieldX (encode (.or x y)) = x
      ∧ fieldY (encode (.or x y)) = y
      ∧ fieldN (encode (.or x y)) = 0x1
  | .and x y =>
    nib0 (encode (.and x y)) = 0x8
      ∧ fieldX (encode (.and x y)) = x
      ∧ fieldY (encode (.and x y)) = y
      ∧ fieldN (encode (.and x y)) = 0x2
  | .xor x y =>
    nib0 (encode (.xor x y)) = 0x8
      ∧ fieldX (encode (.xor x y)) = x
      ∧ fieldY (encode (.xor x y)) = y
      ∧ fieldN (encode (.xor x y)) = 0x3
  | .addv x y =>
    nib0 (encode (.addv x y)) = 0x8
      ∧ fieldX (encode (.addv x y)) = x
      ∧ fieldY (encode (.addv x y)) = y
      ∧ fieldN (encode (.addv x y)) = 0x4
  | .sub x y =>
    nib0 (encode (.sub x y)) = 0x8
      ∧ fieldX (encode (.sub x y)) = x
      ∧ fieldY (encode (.sub x y)) = y
      ∧ fieldN (encode (.sub x y)) = 0x5
  | .shr x y =>
    nib0 (encode (.shr x y)) = 0x8
      ∧ fieldX (encode (.shr x y)) = x
      ∧ fieldY (encode (.shr x y)) = y
      ∧ fieldN (encode (.shr x y)) = 0x6
  | .subn x y =>
    nib0 (encode (.subn x y)) = 0x8
      ∧ fieldX (encode (.subn x y)) = x
      ∧ fieldY (encode (.subn x y)) = y
      ∧ fieldN (encode (.subn x y)) = 0x7
  | .shl x y =>
    nib0 (encode (.shl x y)) = 0x8
      ∧ fieldX (encode (.shl x y)) = x
      ∧ fieldY (encode (.shl x y)) = y
      ∧ fieldN (encode (.shl x y)) = 0xE
  | .snev x y =>
    nib0 (encode (.snev x y)) = 0x9
      ∧ fieldX (encode (.snev x y)) = x
      ∧ fieldY (encode (.snev x y)) = y
      ∧ fieldN (encode (.snev x y)) = 0x0
  | .ldi nnn => nib0 (encode (.ldi nnn)) = 0xA ∧ fieldNNN (encode (.ldi nnn)) = nnn
  | .jpv0 nnn => nib0 (encode (.jpv0 nnn)) = 0xB ∧ fieldNNN (encode (.jpv0 nnn)) = nnn
  | .rnd x kk =>
    nib0 (encode (.rnd x kk)) = 0xC
      ∧ fieldX (encode (.rnd x kk)) = x
      ∧ fieldKK (encode (.rnd x kk)) = kk
  | .drw x y n =>
    nib0 (encode (.drw x y n)) = 0xD
      ∧ fieldX (encode (.drw x y n)) = x
      ∧ fieldY (encode (.drw x y n)) = y
      ∧ fieldN (encode (.drw x y n)) = n
  | .skp x =>
    nib0 (encode (.skp x)) = 0xE
      ∧ fieldX (encode (.skp x)) = x
      ∧ fieldKK (encode (.skp x)) = 0x9E
  | .sknp x =>
    nib0 (encode (.sknp x)) = 0xE
      ∧ fieldX (encode (.sknp x)) = x
      ∧ fieldKK (encode (.sknp x)) = 0xA1
  | .lddt x =>
    nib0 (encode (.lddt x)) = 0xF
      ∧ fieldX (encode (.lddt x)) = x
      ∧ fieldKK (encode (.lddt x)) = 0x07
  | .ldkp x =>
    nib0 (encode (.ldkp x)) = 0xF
      ∧ fieldX (encode (.ldkp x)) = x
      ∧ fieldKK (encode (.ldkp x)) = 0x0A
  | .stdt x =>
    nib0 (encode (.stdt x)) = 0xF
      ∧ fieldX (encode (.stdt x)) = x
      ∧ fieldKK (encode (.stdt x)) = 0x15
  | .stst x =>
    nib0 (encode (.stst x)) = 0xF
      ∧ fieldX (encode (.stst x)) = x
      ∧ fieldKK (encode (.stst x)) = 0x18
  | .addi x =>
    nib0 (encode (.addi x)) = 0xF
      ∧ fieldX (encode (.addi x)) = x
      ∧ fieldKK (encode (.addi x)) = 0x1E
  | .ldf x =>
    nib0 (encode (.ldf x)) = 0xF
      ∧ fieldX (encode (.ldf x)) = x
      ∧ fieldKK (encode (.ldf x)) = 0x29
  | .ldbc x =>
    nib0 (encode (.ldbc x)) = 0xF
      ∧ fieldX (encode (.ldbc x)) = x
      ∧ fieldKK (encode (.ldbc x)) = 0x33
  | .ldmw x =>
    nib0 (encode (.ldmw x)) = 0xF
      ∧ fieldX (encode (.ldmw x)) = x
      ∧ fieldKK (encode (.ldmw x)) = 0x55
  | .ldmr x =>
    nib0 (encode (.ldmr x)) = 0xF
      ∧ fieldX (encode (.ldmr x)) = x
      ∧ fieldKK (encode (.ldmr x)) = 0x65
  | .assert => encode .assert = 0xF999

theorem cls : Statement .cls := rfl
theorem ret : Statement .ret := rfl
theorem sys (nnn : Addr) : Statement (.sys nnn) :=
  encNNN_fields 0x0 nnn (by decide)
theorem jp (nnn : Addr) : Statement (.jp nnn) :=
  encNNN_fields 0x1 nnn (by decide)
theorem call (nnn : Addr) : Statement (.call nnn) :=
  encNNN_fields 0x2 nnn (by decide)
theorem se (x : Reg) (kk : Byte) : Statement (.se x kk) :=
  encXKK_fields 0x3 x kk (by decide)
theorem sne (x : Reg) (kk : Byte) : Statement (.sne x kk) :=
  encXKK_fields 0x4 x kk (by decide)
theorem sev (x y : Reg) : Statement (.sev x y) :=
  encXYN_fields 0x5 x y 0x0 (by decide) (by decide)
theorem ld (x : Reg) (kk : Byte) : Statement (.ld x kk) :=
  encXKK_fields 0x6 x kk (by decide)
theorem add (x : Reg) (kk : Byte) : Statement (.add x kk) :=
  encXKK_fields 0x7 x kk (by decide)
theorem ldv (x y : Reg) : Statement (.ldv x y) :=
  encXYN_fields 0x8 x y 0x0 (by decide) (by decide)
theorem or (x y : Reg) : Statement (.or x y) :=
  encXYN_fields 0x8 x y 0x1 (by decide) (by decide)
theorem and (x y : Reg) : Statement (.and x y) :=
  encXYN_fields 0x8 x y 0x2 (by decide) (by decide)
theorem xor (x y : Reg) : Statement (.xor x y) :=
  encXYN_fields 0x8 x y 0x3 (by decide) (by decide)
theorem addv (x y : Reg) : Statement (.addv x y) :=
  encXYN_fields 0x8 x y 0x4 (by decide) (by decide)
theorem sub (x y : Reg) : Statement (.sub x y) :=
  encXYN_fields 0x8 x y 0x5 (by decide) (by decide)
theorem shr (x y : Reg) : Statement (.shr x y) :=
  encXYN_fields 0x8 x y 0x6 (by decide) (by decide)
theorem subn (x y : Reg) : Statement (.subn x y) :=
  encXYN_fields 0x8 x y 0x7 (by decide) (by decide)
theorem shl (x y : Reg) : Statement (.shl x y) :=
  encXYN_fields 0x8 x y 0xE (by decide) (by decide)
theorem snev (x y : Reg) : Statement (.snev x y) :=
  encXYN_fields 0x9 x y 0x0 (by decide) (by decide)
theorem ldi (nnn : Addr) : Statement (.ldi nnn) :=
  encNNN_fields 0xA nnn (by decide)
theorem jpv0 (nnn : Addr) : Statement (.jpv0 nnn) :=
  encNNN_fields 0xB nnn (by decide)
theorem rnd (x : Reg) (kk : Byte) : Statement (.rnd x kk) :=
  encXKK_fields 0xC x kk (by decide)
theorem drw (x y : Reg) (n : Nibble) : Statement (.drw x y n) := by
  have h := encXYN_fields 0xD x y n.val (by decide) n.isLt
  have hn : Fin.ofNat 16 n.val = n := Fin.ext (Nat.mod_eq_of_lt n.isLt)
  exact ⟨h.1, h.2.1, h.2.2.1, h.2.2.2.trans hn⟩
theorem skp (x : Reg) : Statement (.skp x) :=
  encXLL_fields 0xE x 0x9E (by decide) (by decide)
theorem sknp (x : Reg) : Statement (.sknp x) :=
  encXLL_fields 0xE x 0xA1 (by decide) (by decide)
theorem lddt (x : Reg) : Statement (.lddt x) :=
  encXLL_fields 0xF x 0x07 (by decide) (by decide)
theorem ldkp (x : Reg) : Statement (.ldkp x) :=
  encXLL_fields 0xF x 0x0A (by decide) (by decide)
theorem stdt (x : Reg) : Statement (.stdt x) :=
  encXLL_fields 0xF x 0x15 (by decide) (by decide)
theorem stst (x : Reg) : Statement (.stst x) :=
  encXLL_fields 0xF x 0x18 (by decide) (by decide)
theorem addi (x : Reg) : Statement (.addi x) :=
  encXLL_fields 0xF x 0x1E (by decide) (by decide)
theorem ldf (x : Reg) : Statement (.ldf x) :=
  encXLL_fields 0xF x 0x29 (by decide) (by decide)
theorem ldbc (x : Reg) : Statement (.ldbc x) :=
  encXLL_fields 0xF x 0x33 (by decide) (by decide)
theorem ldmw (x : Reg) : Statement (.ldmw x) :=
  encXLL_fields 0xF x 0x55 (by decide) (by decide)
theorem ldmr (x : Reg) : Statement (.ldmr x) :=
  encXLL_fields 0xF x 0x65 (by decide) (by decide)
theorem assert : Statement .assert := rfl

end Sys2Proof.Laws.EncodedFields
end

