-- ==== Sys2Proof/Tests/Slice0.lean ====
section
/-! SUPPORT. The model's own tests: ill-formed terms, words written out from the spec's encodings, the
vectors of 95_test_vectors.md as single steps, and a witness for every statement with hypotheses. Each
expected value is the spec's, under the vector's name where it has one. -/
namespace Sys2Proof.Tests
open Sys2Proof Sys2Proof.Machine

/-! ### Well-formedness: each check refuses an ill-formed term (R101, R89) -/

theorem test_sys_000_is_ill_formed : (Instr.sys 0x000).wellFormed = false := by decide
theorem test_sys_0E0_is_ill_formed : (Instr.sys 0x0E0).wellFormed = false := by decide
theorem test_sys_0EE_is_ill_formed : (Instr.sys 0x0EE).wellFormed = false := by decide
theorem test_sys_neighbours_are_well_formed :
    (Instr.sys 0x001).wellFormed = true ∧ (Instr.sys 0x0E1).wellFormed = true
      ∧ (Instr.sys 0x0EF).wellFormed = true ∧ (Instr.sys 0xFFF).wellFormed = true := by decide

/-! ### Decoding: a word written out from the template of each row (R84), and the vectors E1 to E28 -/

theorem test_decode_nibble_0 : decodeOp 0x00E0 = .ok .cls ∧ decodeOp 0x00EE = .ok .ret
    ∧ decodeOp 0x0001 = .ok (.sys 0x001) ∧ decodeOp 0x00E1 = .ok (.sys 0x0E1)
    ∧ decodeOp 0x00FD = .ok (.sys 0x0FD) := by decide
theorem test_decode_jumps : decodeOp 0x1234 = .ok (.jp 0x234) ∧ decodeOp 0x2300 = .ok (.call 0x300)
    ∧ decodeOp 0xBFFF = .ok (.jpv0 0xFFF) := by decide
theorem test_decode_skips : decodeOp 0x3A7F = .ok (.se 10 0x7F) ∧ decodeOp 0x432A = .ok (.sne 3 0x2A)
    ∧ decodeOp 0x5120 = .ok (.sev 1 2) ∧ decodeOp 0x9120 = .ok (.snev 1 2)
    ∧ decodeOp 0xE19E = .ok (.skp 1) ∧ decodeOp 0xE1A1 = .ok (.sknp 1) := by decide
theorem test_decode_loads : decodeOp 0x6A2F = .ok (.ld 10 0x2F) ∧ decodeOp 0x7103 = .ok (.add 1 0x03)
    ∧ decodeOp 0x8120 = .ok (.ldv 1 2) ∧ decodeOp 0xC3F0 = .ok (.rnd 3 0xF0) := by decide
theorem test_decode_nibble_8 : decodeOp 0x8121 = .ok (.or 1 2) ∧ decodeOp 0x8122 = .ok (.and 1 2)
    ∧ decodeOp 0x8123 = .ok (.xor 1 2) ∧ decodeOp 0x8AB4 = .ok (.addv 10 11)
    ∧ decodeOp 0x8235 = .ok (.sub 2 3) ∧ decodeOp 0x8126 = .ok (.shr 1 2)
    ∧ decodeOp 0x8237 = .ok (.subn 2 3) ∧ decodeOp 0x8ABE = .ok (.shl 10 11) := by decide
theorem test_decode_index : decodeOp 0xA001 = .ok (.ldi 0x001) ∧ decodeOp 0xF21E = .ok (.addi 2)
    ∧ decodeOp 0xF029 = .ok (.ldf 0) ∧ decodeOp 0xF333 = .ok (.ldbc 3)
    ∧ decodeOp 0xF955 = .ok (.ldmw 9) ∧ decodeOp 0xFF65 = .ok (.ldmr 15) := by decide
theorem test_decode_others : decodeOp 0xD7A5 = .ok (.drw 7 10 5) ∧ decodeOp 0xF507 = .ok (.lddt 5)
    ∧ decodeOp 0xF00A = .ok (.ldkp 0) ∧ decodeOp 0xF515 = .ok (.stdt 5)
    ∧ decodeOp 0xF518 = .ok (.stst 5) ∧ decodeOp 0xF999 = .ok .assert := by decide
theorem test_decode_refuses : decodeOp 0x0000 = .error .blank ∧ decodeOp 0x5121 = .error .noTemplate
    ∧ decodeOp 0x8AB8 = .error .noTemplate ∧ decodeOp 0x8ABF = .error .noTemplate
    ∧ decodeOp 0x912F = .error .noTemplate ∧ decodeOp 0xE19F = .error .noTemplate
    ∧ decodeOp 0xF899 = .error .noTemplate ∧ decodeOp 0xF99A = .error .noTemplate
    ∧ decodeOp 0xF075 = .error .noTemplate ∧ decodeOp 0xFFFF = .error .noTemplate := by decide
theorem test_decode_needs_two_bytes :
    decodeBytes [] = .error .truncated ∧ decodeBytes [0xA0] = .error .truncated
      ∧ decodeBytes [0xA0, 0x01, 0xF9] = .ok (.ldi 0x001, [0xF9]) := by decide
theorem test_decode_table_word :
    decodeTableWord 16 0xD7A5 = some (.drw 7 10 5) ∧ decodeTableWord 16 0x0000 = none := by decide
/-- S13: "by successive 4-bit left-shifts". -/
theorem test_getArgument_s13 : getArgument ⟨'0', 'n', 'n', 'n'⟩ 0x0ABC 'n' = 0xABC := by decide
theorem test_getArgument_absent_letter : getArgument ⟨'0', '0', 'E', '0'⟩ 0x00E0 'x' = 0 := by decide
/-- S5: the scores of 0x00E0. -/
theorem test_scores_s5 : score ⟨'0', '0', 'E', '0'⟩ 0x00E0 = 4 ∧ score ⟨'0', '0', 'E', 'E'⟩ 0x00E0 = 0
    ∧ score ⟨'0', 'n', 'n', 'n'⟩ 0x00E0 = 1 := by decide

/-! ### Small states -/

/-- What a step answers of the state after it, when the word `op` is the next instruction. -/
def after {α : Type} (op : Word) (s : State) (f : State → α) : Option α :=
  match step (placeWord s op) with
  | .next t => some (f t)
  | .fault _ => none
  | .refused _ => none

/-- What a step answers of the state after it, when the host's next event is `e`. -/
def onEvent {α : Type} (e : HostEvent) (s : State) (f : State → α) : Option α :=
  match step { s with host := [e] } with
  | .next t => some (f t)
  | .fault _ => none
  | .refused _ => none

/-- The reset state. -/
abbrev s0 : State := State.reset

/-- The reset state in a run. -/
def running : State := s0.setRun .running

/-- A key wait of the register `x`, begun by the instruction at 0x200. -/
def waiting (x : Reg) : State := { s0 with pc := 0x202, waitReg := x, run := .waitKey }

/-- A state with bytes written from an address up. -/
def withBytes (s : State) (a : Nat) (bs : List Byte) : State := s.setMem (writeBytes s.mem a bs)

/-- A state in a run whose next word is undecodable. -/
def atBadWord : State := withBytes running 0x200 [0xFF, 0xFF]

/-- The reset state with a full call stack of depth 16. -/
def fullStack : State := { s0 with sp := 16, stack := List.replicate 16 0x0204 }

/-! ### Control transfer -/

theorem test_sys_F1 : after 0x0123 s0 (fun t => (t.pc, t.run)) = some (0x202, .running) := by decide
theorem test_ret_F9 :
    after 0x00EE { s0 with pc := 0x300, stack := [0x0204], sp := 1 } (fun t => (t.pc, t.sp, t.slot 0))
      = some (0x204, 0, 0x0204) := by decide
theorem test_ret_F10 : after 0x00EE s0 (fun t => (t.fault, t.pc, t.sp, t.run))
    = some (⟨.stackUnderflow, 0x00EE, 0x200⟩, 0x202, 0, .haltedFault) := by decide
theorem test_jp_F4 : after 0x1301 (s0.setPc 0x301) (fun t => (t.pc, t.run))
    = some (0x301, .haltedLoop) := by decide
theorem test_jp_F5 : after 0x1200 (s0.setPc 0x202) (fun t => (t.pc, t.run))
    = some (0x200, .running) := by decide
theorem test_call_F7 : after 0x2300 (s0.setPc 0x202) (fun t => (t.slot 0, t.sp, t.pc))
    = some (0x0204, 1, 0x300) := by decide
theorem test_call_F8 : after 0x2300 fullStack (fun t => (t.fault, t.pc, t.sp, t.run))
    = some (⟨.stackOverflow, 0x2300, 0x200⟩, 0x202, 16, .haltedFault) := by decide
theorem test_jpv0_F12 : after 0xBFFF (s0.setReg 0 0xFF) (fun t => (t.pc, t.run))
    = some (0x10FE, .running) := by decide
theorem test_jpv0_F14 : after 0xB1F0 ((s0.setReg 1 0x10).setReg 0 0x02) (fun t => t.pc)
    = some 0x1F2 := by decide

/-! ### Skips -/

theorem test_se_K1_K2 : after 0x332A (s0.setReg 3 0x2A) (fun t => t.pc) = some 0x204
    ∧ after 0x332B (s0.setReg 3 0x2A) (fun t => t.pc) = some 0x202 := by decide
theorem test_sne_K4_K5 : after 0x432A (s0.setReg 3 0x2A) (fun t => t.pc) = some 0x202
    ∧ after 0x4300 (s0.setReg 3 0x2A) (fun t => t.pc) = some 0x204 := by decide
theorem test_sev_K6_K7 : after 0x5120 ((s0.setReg 1 7).setReg 2 7) (fun t => t.pc) = some 0x204
    ∧ after 0x5120 ((s0.setReg 1 7).setReg 2 8) (fun t => t.pc) = some 0x202 := by decide
theorem test_snev_K9_K10 : after 0x9120 ((s0.setReg 1 7).setReg 2 8) (fun t => t.pc) = some 0x204
    ∧ after 0x9440 s0 (fun t => t.pc) = some 0x202 := by decide
theorem test_skp_K11_K12 :
    after 0xE49E { s0.setReg 4 0x0A with keyDown := 0x400 } (fun t => (t.pc, t.pulses))
      = some (0x204, [.dbgAddr 0x200, .keyQuery 0x0A])
    ∧ after 0xE49E (s0.setReg 4 0x0A) (fun t => t.pc) = some 0x202 := by decide
theorem test_sknp_K13_K14 :
    after 0xE4A1 { s0.setReg 4 0x0A with keyDown := 0x400 } (fun t => t.pc) = some 0x202
    ∧ after 0xE4A1 (s0.setReg 4 0x0A) (fun t => t.pc) = some 0x204 := by decide

/-! ### Load, arithmetic, logic, shift, random -/

theorem test_ld_S8 : after 0x6FAB s0 (fun t => (t.reg 15, t.pc)) = some (0xAB, 0x202) := by decide
theorem test_add_A2 : after 0x70FF ((s0.setReg 0 1).setReg 15 1) (fun t => (t.reg 0, t.reg 15))
    = some (0x00, 1) := by decide
theorem test_ldv_A4 : after 0x8120 (s0.setReg 2 0x33) (fun t => (t.reg 1, t.reg 2))
    = some (0x33, 0x33) := by decide
theorem test_or_A5 : after 0x8121 (((s0.setReg 1 0xF0).setReg 2 0x0F).setReg 15 1)
    (fun t => (t.reg 1, t.reg 15)) = some (0xFF, 1) := by decide
theorem test_and_A6 : after 0x8122 (((s0.setReg 1 0xF3).setReg 2 0x3C).setReg 15 1)
    (fun t => (t.reg 1, t.reg 15)) = some (0x30, 1) := by decide
theorem test_xor_A7 : after 0x8123 (((s0.setReg 1 0xFF).setReg 2 0x0F).setReg 15 1)
    (fun t => (t.reg 1, t.reg 15)) = some (0xF0, 1) := by decide
theorem test_addv_S1 : after 0x8234 ((s0.setReg 2 0xFF).setReg 3 0x07)
    (fun t => (t.reg 2, t.reg 15, t.reg 3)) = some (0x06, 1, 0x07) := by decide
theorem test_addv_A13 : after 0x8F14 ((s0.setReg 15 0x10).setReg 1 0x20) (fun t => t.reg 15)
    = some 0 := by decide
theorem test_sub_S3 : after 0x8235 ((s0.setReg 2 0x07).setReg 3 0x64)
    (fun t => (t.reg 2, t.reg 15)) = some (0xA3, 0) := by decide
theorem test_sub_A15_A16 :
    after 0x8015 ((s0.setReg 0 5).setReg 1 5) (fun t => (t.reg 0, t.reg 15)) = some (0, 1)
    ∧ after 0x8F15 ((s0.setReg 15 3).setReg 1 5) (fun t => t.reg 15) = some 0 := by decide
theorem test_shr_A22 : after 0x8126 ((s0.setReg 1 0x04).setReg 2 0xFF)
    (fun t => (t.reg 15, t.reg 1, t.reg 2)) = some (0, 0x02, 0xFF) := by decide
theorem test_shr_A23 : after 0x8F06 (s0.setReg 15 0x05) (fun t => t.reg 15) = some 0x02 := by decide
theorem test_subn_A18 : after 0x8017 ((s0.setReg 0 0x64).setReg 1 0x07)
    (fun t => (t.reg 0, t.reg 15)) = some (0xA3, 0) := by decide
theorem test_subn_A20 : after 0x8F17 ((s0.setReg 15 1).setReg 1 5) (fun t => t.reg 15)
    = some 1 := by decide
theorem test_shl_S16 : after 0x810E (s0.setReg 1 0x81) (fun t => (t.reg 15, t.reg 1))
    = some (1, 0x02) := by decide
theorem test_shl_A27 : after 0x8F0E (s0.setReg 15 0x81) (fun t => t.reg 15) = some 0x02 := by decide
theorem test_rnd_A28 : after 0xC30F { s0 with rndIn := [0xB7, 0x11] } (fun t => (t.reg 3, t.rndIn))
    = some (0x07, [0x11]) := by decide
/-- A30: with the mask 0 the result is 0 whatever the sample, a free value here. -/
theorem test_rnd_A30 : (match exec (.rnd 3 0x00) s0 with
    | .next t => t.reg 3 = 0x00
    | .fault _ => False
    | .refused _ => False) := by
  show (((sampleRnd s0).2).setReg 3 ((sampleRnd s0).1 &&& 0x00)).reg 3 = 0x00
  rw [State.reg_setReg_same]
  exact BitVec.and_zero

/-! ### Index register and memory -/

theorem test_ldi_M1 : after 0xAFFF s0 (fun t => t.i) = some 0xFFF := by decide
theorem test_addi_M3 : after 0xF21E ((s0.setI 0xFFF).setReg 2 0x02) (fun t => (t.i, t.reg 15))
    = some (0x001, 0) := by decide
theorem test_ldf_M5_M7 : after 0xF029 (s0.setReg 0 0x0A) (fun t => t.i) = some 0x1E2
    ∧ after 0xF029 (s0.setReg 0 0xFF) (fun t => t.i) = some 0x6AB := by decide
theorem test_ldbc_M8a : after 0xF333 ((s0.setI 0xFFD).setReg 3 0x7B)
    (fun t => (readBytes t.mem 0xFFD 3, t.i)) = some ([1, 2, 3], 0xFFD) := by decide
theorem test_ldbc_M8b : after 0xF333 ((s0.setI 0xFFE).setReg 3 0x7B)
    (fun t => (t.fault, Memory.get t.mem 0xFFE, t.pc, t.run))
      = some (⟨.outOfBounds, 0xF333, 0x1000⟩, 0, 0x202, .haltedFault) := by decide
theorem test_ldmw_M9 : after 0xF255 (((s0.setI 0x400).setReg 0 0x11).setReg 1 0x22 |>.setReg 2 0x33)
    (fun t => (readBytes t.mem 0x3FF 5, t.i)) = some ([0, 0x11, 0x22, 0x33, 0], 0x402) := by decide
theorem test_ldmw_M12a : after 0xFF55 ((s0.setI 0xFF1).setReg 0 0x11)
    (fun t => (t.fault, Memory.get t.mem 0xFF1, t.i)) = some (⟨.outOfBounds, 0xFF55, 0x1000⟩, 0, 0xFF1) := by
  decide
theorem test_ldmr_M13 : after 0xF165 (withBytes ((s0.setI 0x400).setReg 2 0x77) 0x400 [0xAA, 0xBB, 0xCC])
    (fun t => (t.reg 0, t.reg 1, t.reg 2, t.i)) = some (0xAA, 0xBB, 0x77, 0x401) := by decide
theorem test_ldmr_M16 : after 0xF165 ((s0.setI 0xFFF).setReg 0 9) (fun t => (t.fault, t.reg 0, t.i))
    = some (⟨.outOfBounds, 0xF165, 0x1000⟩, 9, 0xFFF) := by decide

/-! ### Display -/

theorem test_cls_D1 : after 0x00E0 { s0.setReg 15 7 with fb := s0.fb.set 4 0xFF }
    (fun t => (t.fb[4], t.pulses, t.reg 15)) = some (0, [.dbgAddr 0x200, .clear], 7) := by decide
/-- D4: the sprite runs over the right edge. -/
theorem test_drw_D4 : after 0xD011 (withBytes ((s0.setI 0x300).setReg 0 0x3C) 0x300 [0xFF])
    (fun t => (t.fb[0], t.fb[1], t.reg 15)) = some (0xF00000000000000F, 0, 0) := by decide
theorem test_drw_D10 :
    after 0xD011 (withBytes { s0.setI 0x300 with fb := s0.fb.set 0 0x8000000000000000 } 0x300 [0xC0])
      (fun t => (t.fb[0], t.reg 15)) = some (0x4000000000000000, 1) := by decide
theorem test_drw_D7_D9 :
    after 0xD010 ((s0.setI 0xFFF).setReg 15 1) (fun t => (t.reg 15, t.run, t.pulses))
      = some (0, .running, [.dbgAddr 0x200, .drawReq ⟨0, 0, 0, []⟩])
    ∧ after 0xD012 ((s0.setI 0xFFF).setReg 15 1) (fun t => (t.fault, t.reg 15, t.pulses))
      = some (⟨.outOfBounds, 0xD012, 0x1000⟩, 1, [.dbgAddr 0x200]) := by decide

/-! ### Timers, key wait, debug exit -/

theorem test_tick_T1_to_T5 :
    (fun s => ((tick s).dt, (tick s).st, (tick s).pulses)) { s0 with dt := 0, st := 0 } = (0, 0, [])
    ∧ (fun s => ((tick s).dt, (tick s).st, (tick s).pulses)) { s0 with dt := 0, st := 1 } = (0, 0, [.beep])
    ∧ (fun s => ((tick s).dt, (tick s).st, (tick s).pulses)) { s0 with dt := 255, st := 255 }
        = (254, 254, [.beep]) := by decide
/-- T7: the tick comes before the instruction; T10: not with `EXT_TIMER` = 1. -/
theorem test_lddt_T7_T10 :
    after 0xF107 { s0 with dt := 5, tickDue := true } (fun t => (t.dt, t.reg 1, t.pulses))
      = some (4, 4, [.tickAck, .dbgAddr 0x200])
    ∧ after 0xF107 { s0 with dt := 5, tickDue := true, extTimer := true } (fun t => (t.dt, t.reg 1, t.pulses))
      = some (5, 5, [.dbgAddr 0x200]) := by decide
theorem test_stdt_T8 : after 0xF515 (s0.setReg 5 0x3C) (fun t => (t.dt, t.st)) = some (0x3C, 0) := by decide
theorem test_stst_T9 : after 0xF518 (s0.setReg 5 2) (fun t => (t.st, t.pulses))
    = some (2, [.dbgAddr 0x200]) := by decide
theorem test_ldkp_T13 : after 0xF30A s0 (fun t => (t.run, t.waitReg, t.pc, keyWait t))
    = some (.waitKey, 3, 0x202, true) := by decide
theorem test_keyEvent_T13_T15_T16 :
    onEvent (.keyEvent 15) (waiting 3) (fun t => (t.reg 3, t.run, t.pc)) = some (0x0F, .running, 0x202)
    ∧ onEvent (.keyEventAndStop 4) (waiting 3) (fun t => (t.reg 3, t.run)) = some (0x04, .haltedExternal)
    ∧ onEvent (.keyEvent 4) running (fun t => (t.reg 0, t.run)) = some (0, .running) := by decide
theorem test_cancelWait_T14 : onEvent (.setContinue false) (waiting 3) (fun t => (t.run, t.pc, t.reg 2))
    = some (.haltedExternal, 0x202, 0) := by decide
theorem test_extTick_T11_T12_T18 :
    onEvent .extTick { running with extTimer := true, dt := 5 } (fun t => t.dt) = some 4
    ∧ onEvent .extTick { running with dt := 5 } (fun t => t.dt) = some 5
    ∧ onEvent .extTick { waiting 3 with extTimer := true, st := 1 } (fun t => (t.st, t.pulses, t.run))
      = some (0, [.beep], .waitKey) := by decide
theorem test_assert_X6 : after 0xF999 { s0.setI 5 with contIn := false } (fun t => (t.run, t.exitCode, t.pc))
    = some (.haltedNormal, 5, 0x202) := by decide

/-! ### The cycle, the fatal conditions, the host -/

theorem test_badWord_X1_X4 :
    onEvent .pass { atBadWord with dt := 2, tickDue := true } (fun t => (t.dt, t.fault, t.pc, t.run, t.pulses))
      = some (1, ⟨.decodeFailure, 0xFFFF, 0x200⟩, 0x202, .haltedFault, [.tickAck, .dbgAddr 0x200])
    ∧ onEvent .pass atBadWord (fun t => runStateCode t.run) = some 6 := by decide
theorem test_blankWord_X2 : onEvent .pass running (fun t => (t.fault, t.pc))
    = some (⟨.decodeFailure, 0x0000, 0x200⟩, 0x202) := by decide
theorem test_fetchFault_X3_F12 :
    onEvent .pass (running.setPc 0xFFF) (fun t => (t.fault, t.pc, t.pulses))
      = some (⟨.outOfBounds, 0x0000, 0x1000⟩, 0xFFF, [])
    ∧ onEvent .pass (running.setPc 0x10FE) (fun t => (t.fault, t.pc))
      = some (⟨.outOfBounds, 0x0000, 0x10FE⟩, 0x10FE) := by decide
theorem test_continue_X5_X7_X8 :
    after 0x6001 { s0 with contIn := false } (fun t => (t.reg 0, t.pc, t.run)) = some (1, 0x202, .haltedExternal)
    ∧ after 0x1200 { s0 with contIn := false } (fun t => t.run) = some .haltedLoop
    ∧ after 0x00EE { s0 with contIn := false } (fun t => t.run) = some .haltedFault := by decide
theorem test_start_X9 :
    onEvent .start { s0.setReg 0 9 with pc := 0x202, run := .haltedFault, fault := ⟨.decodeFailure, 0xFFFF, 0x200⟩ }
      (fun t => (t.pc, t.fault, t.exitCode, t.run, t.reg 0)) = some (0x200, ⟨.none, 0, 0⟩, 0, .running, 9) := by
  decide
theorem test_commands_X10 : onEvent .reset (running.setReg 0 9) (fun t => (t.reg 0, t.run)) = some (9, .running)
    ∧ onEvent (.load [1]) running (fun t => Memory.get t.mem 0x200) = some 0
    ∧ onEvent .start (running.setPc 0x300) (fun t => t.pc) = some 0x300 := by decide
/-- The state before Z1. -/
def beforeZ1 : State :=
  withBytes (withBytes { s0.setReg 3 7 with
    i := 0x123, dt := 9, sp := 2, stack := [1, 2], exitCode := 0x123, run := .haltedNormal,
    fb := s0.fb.set 4 1 } 0x1B0 [0]) 0x300 [0x55]

theorem test_reset_Z1 :
    onEvent .reset beforeZ1 (fun t => (t.reg 3, t.i, t.dt, t.sp, t.slot 0, t.exitCode))
      = some (0, 0, 0, 0, 0, 0)
    ∧ onEvent .reset beforeZ1 (fun t => (t.fb[4], t.run, t.pulses)) = some (0, .ready, [.clear])
    ∧ onEvent .reset beforeZ1 (fun t => (readBytes t.mem 0x1B0 5, Memory.get t.mem 0x300))
      = some ([0xF0, 0x90, 0x90, 0x90, 0xF0], 0x55) := by decide
/-- R69: the font is a parameter; a reset writes the state's own, glyph F's bottom row last. -/
theorem test_reset_writes_the_font :
    onEvent .reset { s0 with font := Vector.replicate 80 0xA5 } (fun t =>
      (Memory.get t.mem 0x1AF, Memory.get t.mem 0x1B0, Memory.get t.mem 0x1FF, Memory.get t.mem 0x200))
      = some (0, 0xA5, 0xA5, 0)
    ∧ Memory.get s0.mem 0x1FF = 0x80 ∧ Config.fontData.length = 80 := by decide
/-- R195: LDKP with `CONTINUE` already 0 is cancelled at once. -/
theorem test_ldkp_with_continue_0 :
    after 0xF30A { s0.setReg 2 9 with contIn := false } (fun t => (t.run, t.waitReg, t.pc, t.reg 2))
      = some (.haltedExternal, 3, 0x202, 9) := by decide
theorem test_load_Z2 : onEvent (.load [0xA0, 0x01, 0xF9, 0x99]) s0
    (fun t => (readBytes t.mem 0x200 5, t.run)) = some ([0xA0, 0x01, 0xF9, 0x99, 0], .ready) := by decide
/-- U26: the change of `EXT_TIMER` during a run is refused, its repetition is not. -/
theorem test_extTimer_change_in_a_run :
    onEvent (.setExtTimer true) running (fun t => t.extTimer) = none
    ∧ onEvent (.setExtTimer false) running (fun t => t.extTimer) = some false
    ∧ onEvent (.setExtTimer true) s0 (fun t => t.extTimer) = some true := by decide
theorem test_debugRead : debugRead (s0.setPc 0x202) .pc = some 0x202 ∧ debugRead running .pc = none
    ∧ debugRead s0 (.mem 0x1B0) = some 0xF0 := by decide

/-! ### Witnesses: for each statement with hypotheses, states and operands that meet them, each clause at
a boundary of its range -/

/-- The host leaves the step to the engine, by doing nothing more or by passing. -/
theorem witness_leavesStep : leavesStep running [] ∧ leavesStep { running with host := [.pass, .reset] } [.reset] :=
  ⟨.inl ⟨rfl, rfl⟩, .inr rfl⟩

theorem witness_DecodeOfEncodeIsTheInstruction : (Instr.sys 0x0E1).wellFormed = true
    ∧ (Instr.drw 15 15 15).wellFormed = true ∧ Instr.assert.wellFormed = true := by decide
theorem witness_EncodeOfDecodeIsTheWord : decodeOp 0xFF65 = .ok (.ldmr 15) := by decide

/-- The rows of CLS, SYS and DRW. -/
def rowCls : Row := ⟨⟨'0', '0', 'E', '0'⟩, fun _ => .cls⟩
def rowSys : Row := ⟨⟨'0', 'n', 'n', 'n'⟩, fun a => .sys (argNNN a)⟩
def rowDrw : Row := ⟨⟨'D', 'x', 'y', 'n'⟩, fun a => .drw (argX a) (argY a) (argN a)⟩

theorem witness_rows : rowCls ∈ templateRows ∧ rowSys ∈ templateRows ∧ rowDrw ∈ templateRows := by
  refine ⟨?_, ?_, ?_⟩ <;> simp [templateRows, rows1, rows2, rows3, rows4, rowCls, rowSys, rowDrw]
theorem witness_TemplatesOverlapOnlyAtClsAndRet : rowCls.template ≠ rowSys.template
    ∧ 1 ≤ score rowCls.template 0x00E0 ∧ 1 ≤ score rowSys.template 0x00E0 := by decide
theorem witness_ArgumentsAreBitFields : 'n' ∈ rowSys.template.chars ∧ rowSys.template.c0 ≠ 'D'
    ∧ 'n' ∈ rowDrw.template.chars ∧ rowDrw.template.c0 = 'D' ∧ 'x' ∈ rowDrw.template.chars
    ∧ 'x' ∉ rowCls.template.chars ∧ 'k' ∉ rowCls.template.chars := by decide
theorem witness_ScoreIsZeroOrTheLiteralCount :
    literalDiffers rowCls.template 0x00E1 ∧ ¬literalDiffers rowCls.template 0x00E0 :=
  ⟨⟨('0', nib3 0x00E1), by decide, 0, by decide, by decide⟩, by
    rintro ⟨p, hp, v, hv, hne⟩
    revert v
    revert p
    decide +revert⟩

theorem witness_MemReadGivesTheSpanOrFaults : 0xFFD + 3 ≤ 4096 ∧ ¬(3 = 0 ∨ 0xFFE + 3 ≤ 4096) := by decide
theorem witness_MemWriteWritesExactlyTheSpan : Memory.wf [(0xFFF, 1)] = true
    ∧ 0xFFD + [1, 2, 3].length ≤ 4096 ∧ ¬([1, 2, 3] = [] ∨ 0xFFE + [1, 2, 3].length ≤ 4096) := by decide
theorem witness_StackIsLastInFirstOut : fullStack.stackDepth = some fullStack.sp ∧ s0.sp = 0
    ∧ s0.stackFull = false ∧ ({ fullStack with stackDepth := none } : State).stackFull = false := by decide
theorem witness_TickCountsDownAndBeeps : s0.st = 0 ∧ (s0.setSt 1).st ≠ 0 := by decide

/-- LD V0, 1 at the last address an instruction can be fetched from. -/
def atLastWord : State := withBytes (running.setPc 0xFFE) 0xFFE [0x60, 0x01]

theorem witness_StepRunsTheDecodedInstruction :
    atLastWord.run = .running ∧ leavesStep atLastWord [] ∧ atLastWord.pc.toNat + 1 < 4096
      ∧ decodeOp (opcodeOf (Memory.get atLastWord.mem atLastWord.pc.toNat)
          (Memory.get atLastWord.mem (atLastWord.pc.toNat + 1))) = .ok (.ld 0 1)
      ∧ (∃ t, exec (.ld 0 1) (readyToExecute atLastWord []) = .next t)
      ∧ atLastWord.tickDue = false ∧ ({ atLastWord with tickDue := true } : State).extTimer = false :=
  ⟨rfl, .inl ⟨rfl, rfl⟩, by decide, by decide, ⟨_, rfl⟩, rfl, rfl⟩
theorem witness_FetchReadsTwoBytesOrFaults : running.run = .running ∧ (running.setPc 0xFFE).pc.toNat < 0xFFF
    ∧ 0xFFF ≤ (running.setPc 0xFFF).pc.toNat ∧ 0xFFF ≤ (running.setPc 0x10FE).pc.toNat := by decide
theorem witness_UndecodableWordTakesDecodeFailure :
    atBadWord.run = .running ∧ leavesStep atBadWord [] ∧ atBadWord.pc.toNat + 1 < 4096
      ∧ 0xFFFF = opcodeOf (Memory.get atBadWord.mem atBadWord.pc.toNat)
          (Memory.get atBadWord.mem (atBadWord.pc.toNat + 1))
      ∧ undecodable 0xFFFF :=
  ⟨rfl, .inl ⟨rfl, rfl⟩, by decide, by decide, .inr (.inr (.inr (.inr (by decide))))⟩
theorem witness_ContinuePollEndsTheRun : ({ running with contIn := false } : State).run = .running
    ∧ running.contIn = true ∧ s0.run.idle = true ∧ (waiting 15).run = .waitKey
    ∧ ({ waiting 15 with contIn := false } : State).contIn = false := by decide
theorem witness_RunStateChangesOnlyByTheTable : ∃ t, step running = .next t ∧ t.run ≠ running.run :=
  ⟨_, rfl, by decide⟩
theorem witness_StepKeepsTheInvariant :
    atLastWord.Inv ∧ (∃ t, step atLastWord = .next t) ∧ fullStack.Inv ∧ (waiting 3).Inv :=
  ⟨by decide, ⟨_, rfl⟩, by decide, by decide⟩
theorem witness_OnlyTheHostStopsTheMachine :
    step { running with host := [.setExtTimer true] } = .refused .extTimerChangedDuringRun := rfl
theorem witness_ResetCommandRestoresTheCore : ({ beforeZ1 with host := [.reset] } : State).host = [.reset]
    ∧ beforeZ1.run.idle = true ∧ Memory.wf beforeZ1.mem = true := by decide
theorem witness_StartCommandBeginsARun : ({ s0 with host := [.start] } : State).host = [.start]
    ∧ s0.run.idle = true ∧ RunState.haltedFault.idle = true := by decide
theorem witness_LoadCommandWritesTheImage : s0.run.idle = true ∧ Memory.wf s0.mem = true
    ∧ (List.replicate 3584 (0 : Byte)).length ≤ 3584 ∧ 3584 < (List.replicate 3585 (0 : Byte)).length :=
  ⟨rfl, rfl, Nat.le_of_eq List.length_replicate,
    Nat.lt_of_lt_of_eq (by decide : 3584 < 3585) List.length_replicate.symm⟩
theorem witness_CommandsDuringARunHaveNoEffect : running.run.idle = false ∧ (waiting 3).run.idle = false
    ∧ ({ running with host := [.load [1]] } : State).host = [.load [1]] := by decide
theorem witness_ExtTickTicksOnlyInARunOfTheHostsTimer :
    ({ waiting 3 with extTimer := true, host := [.extTick] } : State).run.idle = false
      ∧ ({ waiting 3 with extTimer := true } : State).extTimer = true
      ∧ ¬(running.extTimer = true ∧ running.run.idle = false) := by decide
theorem witness_KeyEventCompletesTheKeyWait : (waiting 15).run = .waitKey ∧ running.run ≠ .waitKey
    ∧ ({ waiting 15 with host := [.keyEvent 15] } : State).host = [.keyEvent 15] := by decide
theorem witness_ContinueFallingCancelsTheKeyWait : (waiting 3).run = .waitKey
    ∧ ({ waiting 3 with host := [.setContinue false] } : State).host = [.setContinue false]
    ∧ ({ waiting 3 with host := [.keyEventAndStop 4] } : State).host = [.keyEventAndStop 4] := by decide
theorem witness_IdleStatesAreFrozen : s0.run.idle = true ∧ leavesStep s0 [] := ⟨rfl, .inl ⟨rfl, rfl⟩⟩

theorem witness_SysDoesNothing : (0x0E1 : Addr) ≠ 0x000 ∧ (0x0E1 : Addr) ≠ 0x0E0 ∧ (0x0E1 : Addr) ≠ 0x0EE := by
  decide
theorem witness_RetPopsThePcOrUnderflows : fullStack.sp ≠ 0 ∧ s0.sp = 0 := by decide
theorem witness_JpJumpsAndHaltsOnItself : (0x200 : Addr).setWidth 16 = (s0.setPc 0x202).pc - 2
    ∧ (0x202 : Addr).setWidth 16 ≠ (s0.setPc 0x202).pc - 2 := by decide
theorem witness_CallPushesTheReturnAddress : s0.stackFull = false
    ∧ ({ fullStack with sp := 15 } : State).stackFull = false ∧ fullStack.stackDepth = some fullStack.sp := by
  decide
theorem witness_AddvSetsSumThenCarry : (14 : Reg) ≠ vf ∧ 255 < (0x80 : Byte).toNat + (0x80 : Byte).toNat
    ∧ ¬255 < (0x80 : Byte).toNat + (0x7F : Byte).toNat := by decide
theorem witness_SubSetsDifferenceThenNotBorrow : (14 : Reg) ≠ vf ∧ (5 : Byte).toNat ≤ (5 : Byte).toNat
    ∧ ¬(6 : Byte).toNat ≤ (5 : Byte).toNat := by decide
theorem witness_ShiftsSetFlagThenResult : (14 : Reg) ≠ vf := by decide
theorem witness_RndMasksOneSample : ({ s0 with rndIn := [0xB7] } : State).rndIn = 0xB7 :: []
    ∧ s0.rndIn = [] := by decide
theorem witness_LdbcStoresTheDigits : Memory.wf s0.mem = true ∧ (s0.setI 0xFFD).i.toNat + 2 < 0x1000
    ∧ 0x1000 ≤ (s0.setI 0xFFE).i.toNat + 2 := by decide
theorem witness_LdmwStoresTheRegisters : Memory.wf s0.mem = true
    ∧ (s0.setI 0xFF0).i.toNat + (15 : Reg).val < 0x1000
    ∧ 0x1000 ≤ (s0.setI 0xFF1).i.toNat + (15 : Reg).val := by decide
theorem witness_LdmrLoadsTheRegisters : (s0.setI 0xFFF).i.toNat + (0 : Reg).val < 0x1000
    ∧ 0x1000 ≤ (s0.setI 0xFFF).i.toNat + (1 : Reg).val := by decide
theorem witness_DrwDrawsAndReportsCollision : (s0.setI 0xFFF).i.toNat + (1 : Nibble).val ≤ 0x1000
    ∧ ¬((2 : Nibble) = 0 ∨ (s0.setI 0xFFF).i.toNat + (2 : Nibble).val ≤ 0x1000) := by decide

/-- A request of one set pixel, at the bottom right corner of the plane. -/
def onePixel : DrawReq := ⟨0x3F, 0x1F, 1, [true, false, false, false, false, false, false, false]⟩

theorem witness_BlitFlipsExactlyTheSpriteCells : (∃ r c, pixelHits onePixel 31 63 r c)
    ∧ ¬(∃ r c, pixelHits onePixel 0 0 r c) :=
  ⟨⟨0, 0, by decide, by decide, by decide, by decide, by decide⟩, by
    rintro ⟨r, c, hr, hc, _, h, _⟩
    simp [onePixel] at hr h
    omega⟩
theorem witness_InstructionsWriteOnlyTheirRegisters : ∃ t, exec (.addv 1 2) s0 = .next t := ⟨_, rfl⟩
theorem witness_OtherStateIsWrittenOnlyWhereNamed : (∃ t, exec .cls s0 = .next t)
    ∧ (∀ x, Instr.cls ≠ .ldbc x) ∧ (∀ x, Instr.cls ≠ .ldmw x) ∧ (∀ nnn, Instr.cls ≠ .call nnn) :=
  ⟨⟨_, rfl⟩, by intro x; simp, by intro x; simp, by intro x; simp⟩
theorem witness_PcAfterEachInstruction :
    (∃ t, exec (.jp 0x300) (running.setPc 0x202) = .next t ∧ t.run ≠ .haltedFault)
      ∧ (∃ t, exec .ret (running.setPc 0x202) = .next t ∧ t.run = .haltedFault)
      ∧ (running.setPc 0x202).pc = 0x200 + 2 ∧ (running.setPc 0x202).run = .running
      ∧ fetch (running.setPc 0xFFF) = .error (.outOfBounds 0x1000)
      ∧ decodeOp 0x0000 = .error .blank ∧ decodeOp 0xFFFF = .error .noTemplate :=
  ⟨⟨_, rfl, by decide⟩, ⟨_, rfl, rfl⟩, rfl, rfl, rfl, rfl, rfl⟩
theorem witness_FaultsArePreciseAndOnlyTheirs :
    ∃ t, exec .ret running = .next t ∧ running.run = .running ∧ t.run = .haltedFault :=
  ⟨_, rfl, rfl, rfl⟩

end Sys2Proof.Tests
end

section
/-! Where `PC` stands after an instruction (10_state.md R16). An instruction either goes on, with `PC` as
`pcAfter` says, or raises a fatal condition, which leaves the `PC` it began with, `a + 2`
(`exec_advances_or_raises`). -/
namespace Sys2Proof.Machine

/-! ### The `PC` and the run state each shared operation leaves -/

@[simp] theorem raise_pc (f : Fault) (op : Word) (s : State) : (raise f op s).pc = s.pc := rfl

@[simp] theorem skipIf_run (c : Bool) (s : State) : (skipIf c s).run = s.run := rfl

/-- A skip of the instruction at `a`, which began with `PC` = `a + 2` (41_skip.md R146). -/
theorem skipIf_pc {s : State} {a : Word} (c : Bool) (hpc : s.pc = a + 2) :
    (skipIf c s).pc = if c then a + 4 else a + 2 := by
  cases c with
  | true =>
    calc s.pc + 2 = a + (2 + 2) := by rw [hpc, BitVec.add_assoc]
      _ = a + 4 := rfl
  | false => exact hpc

theorem skipIf_not_pc {s : State} {a : Word} (c : Bool) (hpc : s.pc = a + 2) :
    (skipIf (!c) s).pc = if c then a + 2 else a + 4 := by
  rw [skipIf_pc _ hpc]; cases c <;> rfl

@[simp] theorem sampleRnd_pc (s : State) : (sampleRnd s).2.pc = s.pc := by
  rcases sampleRnd_cases s with ⟨b, rest, _, e⟩ | ⟨_, e⟩ <;> rw [e]

@[simp] theorem sampleRnd_run (s : State) : (sampleRnd s).2.run = s.run := by
  rcases sampleRnd_cases s with ⟨b, rest, _, e⟩ | ⟨_, e⟩ <;> rw [e]

theorem pop_ok_inv {s : State} {r : Word × State} (h : pop s = .ok r) :
    r.1 = s.slot (s.sp - 1) ∧ r.2 = { s with sp := s.sp - 1 } := by
  rcases pop_cases s with ⟨_, e⟩ | ⟨_, e⟩ <;> rw [e] at h <;> cases h
  exact ⟨rfl, rfl⟩

theorem push_ok_inv {w : Word} {s u : State} (h : push w s = .ok u) :
    u = { s with stack := setSlot s.stack s.sp w, sp := s.sp + 1 } := by
  rcases push_cases w s with ⟨_, e⟩ | ⟨_, e⟩ <;> rw [e] at h <;> cases h
  rfl

/-! ### Jump targets as the naturals R16 names -/

theorem addrWord_eq_ofNat (nnn : Addr) : addrWord nnn = BitVec.ofNat 16 nnn.toNat :=
  (BitVec.ofNat_toNat 16 nnn).symm

theorem addrWord_add_zext16 (nnn : Addr) (b : Byte) :
    addrWord nnn + zext16 b = BitVec.ofNat 16 (nnn.toNat + b.toNat) := by
  rw [BitVec.ofNat_add, BitVec.ofNat_toNat, BitVec.ofNat_toNat]; rfl

/-! ### Going on or raising -/

/-- An instruction that began in `s` left `t`: it went on with `PC` = `w`, or it raised. -/
def advancesOrRaises (w : Word) (s t : State) : Prop :=
  (t.run ≠ .haltedFault ∧ t.pc = w) ∨ ∃ f op, t = raise f op s

/-- A meaning that cannot raise goes on. -/
theorem advancesOrRaises_of_next {w : Word} {s t u : State}
    (h : (Host.Outcome.next u : Outcome) = .next t) (hrun : u.run ≠ .haltedFault) (hpc : u.pc = w) :
    advancesOrRaises w s t := by
  cases h
  exact .inl ⟨hrun, hpc⟩

/-- A meaning that may raise goes on with the result of its operation, or takes the condition. -/
theorem advancesOrRaises_of_orRaise {α : Type} {w op : Word} {s t : State} {r : Except Fault α}
    {rest : α → State} (h : orRaise op s r rest = .next t)
    (hrest : ∀ v, r = .ok v → (rest v).run ≠ .haltedFault ∧ (rest v).pc = w) :
    advancesOrRaises w s t := by
  rcases orRaise_cases op s r rest with ⟨v, hv, e⟩ | ⟨f, _, e⟩ <;> rw [e] at h <;> cases h
  · exact .inl (hrest v hv)
  · exact .inr ⟨f, op, rfl⟩

/-- Every instruction goes on with `PC` as the list of 10_state.md R16 has it, or raises. -/
theorem exec_advances_or_raises {i : Instr} {s t : State} {a : Word} (hpc : s.pc = a + 2)
    (hrun : s.run = .running) (h : exec i s = .next t) : advancesOrRaises (pcAfter a i s) s t := by
  have hgo : s.run ≠ .haltedFault := by simp [hrun]
  cases i with
  | jp nnn =>
    refine advancesOrRaises_of_next h ?_ (addrWord_eq_ofNat nnn)
    rw [State.setRun_run]; split
    · decide
    · exact hgo
  | jpv0 nnn => exact advancesOrRaises_of_next h hgo (addrWord_add_zext16 nnn _)
  | call nnn =>
    refine advancesOrRaises_of_orRaise h fun u hu => ?_
    rw [push_ok_inv hu]
    exact ⟨hgo, addrWord_eq_ofNat nnn⟩
  | ret =>
    refine advancesOrRaises_of_orRaise h fun r hr => ?_
    obtain ⟨hslot, hstate⟩ := pop_ok_inv hr
    rw [hslot, hstate]
    exact ⟨hgo, rfl⟩
  | se x kk => exact advancesOrRaises_of_next h hgo (by simp [skipIf_pc _ hpc, pcAfter])
  | sne x kk => exact advancesOrRaises_of_next h hgo (by simp [skipIf_pc _ hpc, pcAfter])
  | sev x y => exact advancesOrRaises_of_next h hgo (by simp [skipIf_pc _ hpc, pcAfter])
  | snev x y => exact advancesOrRaises_of_next h hgo (by simp [skipIf_pc _ hpc, pcAfter])
  | skp x => exact advancesOrRaises_of_next h hgo (skipIf_pc (s := s.pulse _) _ hpc)
  | sknp x => exact advancesOrRaises_of_next h hgo (skipIf_not_pc (s := s.pulse _) _ hpc)
  | rnd x kk =>
    exact advancesOrRaises_of_next h (sampleRnd_run s ▸ hgo) ((sampleRnd_pc s).trans hpc)
  | ldkp x => exact advancesOrRaises_of_next h (nofun) hpc
  | assert => exact advancesOrRaises_of_next h (nofun) hpc
  | drw x y n => exact advancesOrRaises_of_orRaise h fun _ _ => ⟨hgo, hpc⟩
  | ldbc x => exact advancesOrRaises_of_orRaise h fun _ _ => ⟨hgo, hpc⟩
  | ldmw x => exact advancesOrRaises_of_orRaise h fun _ _ => ⟨hgo, hpc⟩
  | ldmr x => exact advancesOrRaises_of_orRaise h fun _ _ => ⟨hgo, hpc⟩
  | _ => exact advancesOrRaises_of_next h hgo hpc

/-! ### LDKP and ASSERT, and the faults of the cycle itself -/

theorem run_of_exec_ldkp {x : Reg} {s t : State} (h : exec (.ldkp x) s = .next t) : t.run = .waitKey :=
  (Host.Outcome.next.inj h) ▸ rfl

theorem run_of_exec_assert {s t : State} (h : exec .assert s = .next t) : t.run = .haltedNormal :=
  (Host.Outcome.next.inj h) ▸ rfl

/-- A word that does not decode raises DecodeFailure (35_instruction_cycle.md R117). -/
theorem executeWord_of_error {op : Word} {e : DecodeError} (s : State) (h : decodeOp op = .error e) :
    executeWord op s = .next (raise .decodeFailure op s) := by
  simp only [executeWord, h]

/-- A condition the fetch raises is taken with `FAULT.opcode` = 0 (60_exceptions.md R216). -/
theorem fetchAndExecute_of_error {s : State} {f : Fault} (h : fetch s = .error f) :
    fetchAndExecute s = .next (raise f 0 s) := by
  simp only [fetchAndExecute, h, fetchFault]

/-- Settles O59: each instruction goes on to `pcAfter` or raises at `a + 2`; the two faults of the cycle
raise in the state after, and in the state before, `PC` was advanced. -/
theorem pcAfterEachInstruction : Obligations.PcAfterEachInstruction := by
  refine ⟨fun i s t a hpc hrun h => ⟨fun hgo => ?_, fun hfault => ?_, ?_, ?_⟩,
    fun op s a e hpc he => ⟨_, executeWord_of_error s he, rfl, hpc⟩,
    fun s f hf => ⟨_, fetchAndExecute_of_error hf, rfl, rfl⟩⟩
  · rcases exec_advances_or_raises hpc hrun h with ⟨_, hadv⟩ | ⟨f, op, rfl⟩
    · exact hadv
    · exact absurd (raise_run f op s) hgo
  · rcases exec_advances_or_raises hpc hrun h with ⟨hrun', _⟩ | ⟨f, op, rfl⟩
    · exact absurd hfault hrun'
    · exact hpc
  · rintro x rfl
    exact run_of_exec_ldkp h
  · rintro rfl
    exact run_of_exec_assert h

end Sys2Proof.Machine
end

section
/-! The score of a template (30_encoding.md R83). The Boolean test in `score` is the proposition
`literalDiffers`; a template has four positions, and each one of the table begins with a literal, the
opcode's first nibble. -/
namespace Sys2Proof.Machine

/-! ### The two values of a score -/

theorem mismatch_iff (c : Char) (n : Nibble) :
    mismatch c n = true ↔ ∃ v, litVal c = some v ∧ v ≠ n.val := by
  unfold mismatch
  cases litVal c with
  | none => simp
  | some v => simp

theorem any_mismatch_iff_literalDiffers (t : Template) (op : Word) :
    (t.chars.zip (nibbles op)).any (fun p => mismatch p.1 p.2) = true ↔ literalDiffers t op := by
  simp only [List.any_eq_true, mismatch_iff, literalDiffers]

theorem score_eq_zero_of_literalDiffers {t : Template} {op : Word} (h : literalDiffers t op) :
    score t op = 0 :=
  if_pos ((any_mismatch_iff_literalDiffers t op).mpr h)

theorem score_eq_literalCount_of_not_literalDiffers {t : Template} {op : Word}
    (h : ¬literalDiffers t op) : score t op = literalCount t :=
  if_neg (mt (any_mismatch_iff_literalDiffers t op).mp h)

/-! ### How many literals a template has -/

theorem literalCount_le_four (t : Template) : literalCount t ≤ 4 :=
  List.length_filter_le _ t.chars

theorem one_le_literalCount_of_first_literal {t : Template} (h : (litVal t.c0).isSome = true) :
    1 ≤ literalCount t :=
  List.length_pos_of_mem (List.mem_filter.mpr ⟨List.mem_cons_self, h⟩)

/-- Every template of the table begins with a literal (30_encoding.md R84). -/
theorem templateRows_first_literal : ∀ r ∈ templateRows, (litVal r.template.c0).isSome = true := by
  decide

/-- Settles O8: `score` tests `literalDiffers`; the first position of every template of the table is one
of its at most four literals. -/
theorem scoreIsZeroOrTheLiteralCount : Obligations.ScoreIsZeroOrTheLiteralCount :=
  ⟨fun _ _ => ⟨score_eq_zero_of_literalDiffers, score_eq_literalCount_of_not_literalDiffers⟩,
    fun r hr => ⟨one_le_literalCount_of_first_literal (templateRows_first_literal r hr),
      literalCount_le_four r.template⟩⟩

end Sys2Proof.Machine
end

section
/-! The fetch (35_instruction_cycle.md R114). Two bytes can be fetched exactly below 0xFFF; the timer service
that comes before the fetch changes neither `PC` nor memory and makes no notification. -/
namespace Sys2Proof.Machine

/-! ### The start of a step, up to the fetch -/

@[simp] theorem stepStart_pc (s : State) (rest : List HostEvent) : (stepStart s rest).pc = s.pc := rfl

@[simp] theorem stepStart_run (s : State) (rest : List HostEvent) : (stepStart s rest).run = s.run := rfl

@[simp] theorem stepStart_pulses (s : State) (rest : List HostEvent) : (stepStart s rest).pulses = [] := rfl

theorem engineStep_of_running {s : State} (h : s.run = .running) : engineStep s = cycle s := by
  simp only [engineStep, h]

/-- A step of a run that the host leaves to the engine is the timer service, then steps 2 to 6. -/
theorem step_of_running {s : State} {rest : List HostEvent} (hrun : s.run = .running)
    (hstep : leavesStep s rest) : step s = fetchAndExecute (timerService (stepStart s rest)) :=
  (step_of_leavesStep hstep).trans (engineStep_of_running hrun)

@[simp] theorem dbgAddr_not_mem_beeps (s : State) (a : Word) : Pulse.dbgAddr a ∉ beeps s := by
  unfold beeps
  split <;> simp

/-- The timer service pulses `BEEP` and `TICK_ACK` only (35_instruction_cycle.md R119, R120). -/
theorem dbgAddr_mem_timerService_iff (s : State) (a : Word) :
    Pulse.dbgAddr a ∈ (timerService s).pulses ↔ Pulse.dbgAddr a ∈ s.pulses := by
  rcases timerService_cases s with ⟨_, _, h⟩ | ⟨_, h⟩
  · simp [h, tick]
  · rw [h]

/-! ### The two answers of the fetch -/

theorem fetch_of_lt {s : State} (h : s.pc.toNat < 0xFFF) :
    fetch s = .ok (opcodeOf (Memory.get s.mem s.pc.toNat) (Memory.get s.mem (s.pc.toNat + 1))) := by
  rcases fetch_cases s with ⟨_, hok⟩ | ⟨hout, _⟩
  · exact hok
  · omega

theorem fetch_of_ge {s : State} (h : 0xFFF ≤ s.pc.toNat) :
    fetch s = .error (.outOfBounds (max s.pc.toNat 0x1000)) := by
  rcases fetch_cases s with ⟨hin, _⟩ | ⟨_, herr⟩
  · omega
  · exact herr

/-- What OutOfBounds with the lowest invalid address `n` leaves (60_exceptions.md R214, R216). -/
theorem raise_outOfBounds (n : Nat) (op : Word) (s : State) :
    raise (.outOfBounds n) op s = faulted s .outOfBounds op (BitVec.ofNat 16 n) := rfl

/-- A cycle that cannot fetch takes OutOfBounds with opcode 0, and does nothing else. -/
theorem fetchAndExecute_of_ge {s : State} (h : 0xFFF ≤ s.pc.toNat) :
    fetchAndExecute s = .next (faulted s .outOfBounds 0 (BitVec.ofNat 16 (max s.pc.toNat 0x1000))) := by
  rw [fetchAndExecute_of_error (fetch_of_ge h), raise_outOfBounds]

/-- Settles O14: the fetch answers by the two cases of `fetch_cases`, and the state it is made in has the
`PC` of the step's start and no notification among its pulses. -/
theorem fetchReadsTwoBytesOrFaults : Obligations.FetchReadsTwoBytesOrFaults := by
  intro s rest hrun hstep
  refine ⟨fetch_of_lt, fun hge => ?_⟩
  have hpc : (timerService (stepStart s rest)).pc = s.pc := timerService_pc _
  refine ⟨?_, hpc, ?_⟩
  · rw [step_of_running hrun hstep, fetchAndExecute_of_ge (hpc ▸ hge), hpc]
  · simp [dbgAddr_mem_timerService_iff]

end Sys2Proof.Machine
end

section
/-! RET (40_flow.md R131). It is decided by `Pop`: a count of 0 raises, any other gives the top slot. -/
namespace Sys2Proof.Machine

/-! ### The two answers of `Pop` -/

theorem pop_of_sp_ne_zero {s : State} (h : s.sp ≠ 0) :
    pop s = .ok (s.slot (s.sp - 1), { s with sp := s.sp - 1 }) := by
  rcases pop_cases s with ⟨hempty, _⟩ | ⟨_, hok⟩
  · exact absurd hempty h
  · exact hok

theorem pop_of_sp_eq_zero {s : State} (h : s.sp = 0) : pop s = .error .stackUnderflow := by
  rcases pop_cases s with ⟨_, herr⟩ | ⟨hne, _⟩
  · exact herr
  · exact absurd h hne

/-! ### RET on each answer -/

theorem hasWord_ret : hasWord .ret 0x00EE := by
  unfold hasWord
  decide

theorem exec_ret_of_pop_ok {s : State} {r : Word × State} (h : pop s = .ok r) :
    exec .ret s = .next (r.2.setPc r.1) := by
  simp only [exec, execRet, h, orRaise]

theorem exec_ret_of_pop_error {s : State} {f : Fault} (h : pop s = .error f) :
    exec .ret s = .next (faulted s (faultKind f) 0x00EE (faultAddr f s.instrAddr)) := by
  simp only [exec, execRet, h, orRaise, raise_eq, encode]

/-- Settles O31: RET sets `PC` to what `Pop` gives, or takes the StackUnderflow that `Pop` raises. -/
theorem retPopsThePcOrUnderflows : Obligations.RetPopsThePcOrUnderflows :=
  fun _ => ⟨hasWord_ret, fun hsp => exec_ret_of_pop_ok (pop_of_sp_ne_zero hsp),
    fun hsp => exec_ret_of_pop_error (pop_of_sp_eq_zero hsp)⟩

end Sys2Proof.Machine
end

section
/-! The display (44_display.md). The blitter is a fold over the sprite's pixels. One pixel flips at most one
cell, and no two pixels flip the same cell (R184 (a)), so a cell is flipped once or not at all, and what a
pixel finds in its cell is what the plane held before the fold. -/
namespace Sys2Proof.Machine

/-! ### CLS -/

theorem hasWord_cls : hasWord .cls 0x00E0 := by
  unfold hasWord
  decide

/-- Settles O50: CLS writes the cleared plane, whose cells are all unset, and pulses CLEAR. -/
theorem clsClearsTheDisplay : Obligations.ClsClearsTheDisplay :=
  fun _ => ⟨hasWord_cls, _, rfl, cell_clear, rfl⟩

/-! ### One pixel -/

/-- The pixel `rc` is set and lands on the cell `(y, x)` (44_display.md R183). -/
def pixelFlips (req : DrawReq) (y : Fin 32) (x : Fin 64) (rc : Nat × Nat) : Bool :=
  spriteBit req rc.1 rc.2 && decide (y = pixelRow req rc.1 ∧ x = pixelColumn req rc.2)

theorem pixelFlips_iff (req : DrawReq) (y : Fin 32) (x : Fin 64) (rc : Nat × Nat) :
    pixelFlips req y x rc = true ↔
      spriteBit req rc.1 rc.2 = true ∧ y = pixelRow req rc.1 ∧ x = pixelColumn req rc.2 := by
  simp only [pixelFlips, Bool.and_eq_true, decide_eq_true_eq]

theorem blitPixel_of_set {req : DrawReq} {rc : Nat × Nat} (acc : Plane × Bool)
    (h : spriteBit req rc.1 rc.2 = true) :
    blitPixel req acc rc = (Plane.toggle acc.1 (pixelRow req rc.1) (pixelColumn req rc.2),
      acc.2 || Plane.cell acc.1 (pixelRow req rc.1) (pixelColumn req rc.2)) :=
  if_pos h

theorem blitPixel_of_unset {req : DrawReq} {rc : Nat × Nat} (acc : Plane × Bool)
    (h : ¬spriteBit req rc.1 rc.2 = true) : blitPixel req acc rc = acc :=
  if_neg h

theorem cell_blitPixel (req : DrawReq) (acc : Plane × Bool) (rc : Nat × Nat) (y : Fin 32) (x : Fin 64) :
    Plane.cell (blitPixel req acc rc).1 y x = (Plane.cell acc.1 y x ^^ pixelFlips req y x rc) := by
  by_cases h : spriteBit req rc.1 rc.2 = true
  · simp [blitPixel_of_set acc h, cell_toggle, pixelFlips, h]
  · simp [blitPixel_of_unset acc h, pixelFlips, h]

theorem blitPixel_collided_iff (req : DrawReq) (acc : Plane × Bool) (rc : Nat × Nat) :
    (blitPixel req acc rc).2 = true ↔
      acc.2 = true ∨ ∃ y x, pixelFlips req y x rc = true ∧ Plane.cell acc.1 y x = true := by
  by_cases h : spriteBit req rc.1 rc.2 = true
  · simp [blitPixel_of_set acc h, pixelFlips_iff, h, and_assoc]
  · simp [blitPixel_of_unset acc h, pixelFlips_iff, h]

/-! ### Pixels that flip distinct cells -/

/-- No two pixels of the list flip the same cell. -/
def flipDistinctCells (req : DrawReq) (l : List (Nat × Nat)) : Prop :=
  l.Pairwise fun a b => ∀ y x, pixelFlips req y x a = true → pixelFlips req y x b = false

/-- A cell that the first pixel flips is flipped by none of the others. -/
theorem any_pixelFlips_eq_false {req : DrawReq} {rc : Nat × Nat} {l : List (Nat × Nat)} {y : Fin 32}
    {x : Fin 64} (hl : flipDistinctCells req (rc :: l)) (h : pixelFlips req y x rc = true) :
    l.any (pixelFlips req y x) = false :=
  List.any_eq_false.mpr fun rc' hmem => by simp [List.rel_of_pairwise_cons hl hmem y x h]

/-- Two pixels of a sprite on one cell are the same pixel: a sprite is 8 wide and at most 15 high, on a
plane of 64 by 32 (44_display.md R184 (a)). -/
theorem pixel_unique {req : DrawReq} {y : Fin 32} {x : Fin 64} {a b : Nat × Nat}
    (ha : a ∈ spritePixels req.h.val) (hb : b ∈ spritePixels req.h.val)
    (hfa : pixelFlips req y x a = true) (hfb : pixelFlips req y x b = true) : a = b := by
  obtain ⟨hra, hca⟩ := (mem_spritePixels _ _).mp ha
  obtain ⟨hrb, hcb⟩ := (mem_spritePixels _ _).mp hb
  obtain ⟨-, hya, hxa⟩ := (pixelFlips_iff _ _ _ _).mp hfa
  obtain ⟨-, hyb, hxb⟩ := (pixelFlips_iff _ _ _ _).mp hfb
  have hh := req.h.isLt
  have hrow : (req.y.toNat + a.1) % 32 = (req.y.toNat + b.1) % 32 := congrArg Fin.val (hya.symm.trans hyb)
  have hcol : (req.x.toNat + a.2) % 64 = (req.x.toNat + b.2) % 64 := congrArg Fin.val (hxa.symm.trans hxb)
  exact Prod.ext (by omega) (by omega)

theorem spritePixels_nodup (h : Nat) : (spritePixels h).Nodup :=
  List.Nodup.product List.nodup_range List.nodup_range

theorem spritePixels_flipDistinctCells (req : DrawReq) :
    flipDistinctCells req (spritePixels req.h.val) :=
  (spritePixels_nodup req.h.val).imp_of_mem fun ha hb hne _ _ hfa =>
    Bool.eq_false_iff.mpr fun hfb => hne (pixel_unique ha hb hfa hfb)

/-! ### The fold over the pixels -/

theorem cell_foldl_blitPixel {req : DrawReq} {l : List (Nat × Nat)} (hl : flipDistinctCells req l)
    (acc : Plane × Bool) (y : Fin 32) (x : Fin 64) :
    Plane.cell (l.foldl (blitPixel req) acc).1 y x
      = (Plane.cell acc.1 y x ^^ l.any (pixelFlips req y x)) := by
  induction l generalizing acc with
  | nil => simp
  | cons rc l ih =>
    rw [List.foldl_cons, ih hl.of_cons, cell_blitPixel, List.any_cons]
    cases hf : pixelFlips req y x rc with
    | false => simp
    | true => simp [any_pixelFlips_eq_false hl hf]

/-- The collision is decided by the plane before the fold (44_display.md R184 (c)). -/
theorem foldl_blitPixel_collided_iff {req : DrawReq} {l : List (Nat × Nat)}
    (hl : flipDistinctCells req l) (acc : Plane × Bool) :
    (l.foldl (blitPixel req) acc).2 = true ↔
      acc.2 = true ∨ ∃ y x, l.any (pixelFlips req y x) = true ∧ Plane.cell acc.1 y x = true := by
  induction l generalizing acc with
  | nil => simp
  | cons rc l ih =>
    have hcell : ∀ y x, l.any (pixelFlips req y x) = true →
        Plane.cell (blitPixel req acc rc).1 y x = Plane.cell acc.1 y x := by
      intro y x hany
      cases hf : pixelFlips req y x rc with
      | false => simp [cell_blitPixel, hf]
      | true => simp [any_pixelFlips_eq_false hl hf] at hany
    calc (l.foldl (blitPixel req) (blitPixel req acc rc)).2 = true
      _ ↔ (blitPixel req acc rc).2 = true
            ∨ ∃ y x, l.any (pixelFlips req y x) = true
                ∧ Plane.cell (blitPixel req acc rc).1 y x = true := ih hl.of_cons _
      _ ↔ (acc.2 = true ∨ ∃ y x, pixelFlips req y x rc = true ∧ Plane.cell acc.1 y x = true)
            ∨ ∃ y x, l.any (pixelFlips req y x) = true ∧ Plane.cell acc.1 y x = true :=
          or_congr (blitPixel_collided_iff req acc rc) (exists_congr fun y => exists_congr fun x =>
            and_congr_right fun hany => by rw [hcell y x hany])
      _ ↔ _ := by simp only [List.any_cons, Bool.or_eq_true, or_and_right, exists_or, or_assoc]

/-! ### The blitter -/

/-- A pixel hits a cell when it is one of the sprite's and flips the cell. -/
theorem pixelHits_iff (req : DrawReq) (y : Fin 32) (x : Fin 64) (r c : Nat) :
    pixelHits req y x r c ↔ (r, c) ∈ spritePixels req.h.val ∧ pixelFlips req y x (r, c) = true := by
  simp only [pixelHits, mem_spritePixels, pixelFlips_iff, pixelRow, pixelColumn, Fin.ext_iff,
    Fin.val_ofNat, and_assoc, eq_comm (a := y.val), eq_comm (a := x.val)]

theorem any_pixelFlips_iff_pixelHits (req : DrawReq) (y : Fin 32) (x : Fin 64) :
    (spritePixels req.h.val).any (pixelFlips req y x) = true ↔ ∃ r c, pixelHits req y x r c := by
  simp only [List.any_eq_true, Prod.exists, pixelHits_iff]

theorem cell_blit (req : DrawReq) (p : Plane) (y : Fin 32) (x : Fin 64) :
    Plane.cell (blit req p).1 y x
      = (Plane.cell p y x ^^ (spritePixels req.h.val).any (pixelFlips req y x)) :=
  cell_foldl_blitPixel (spritePixels_flipDistinctCells req) (p, false) y x

theorem cell_blit_of_hit {req : DrawReq} {y : Fin 32} {x : Fin 64} (p : Plane)
    (h : ∃ r c, pixelHits req y x r c) : Plane.cell (blit req p).1 y x = !Plane.cell p y x := by
  rw [cell_blit, (any_pixelFlips_iff_pixelHits req y x).mpr h, Bool.xor_true]

theorem cell_blit_of_no_hit {req : DrawReq} {y : Fin 32} {x : Fin 64} (p : Plane)
    (h : ¬∃ r c, pixelHits req y x r c) : Plane.cell (blit req p).1 y x = Plane.cell p y x := by
  rw [cell_blit, Bool.eq_false_iff.mpr (mt (any_pixelFlips_iff_pixelHits req y x).mp h), Bool.xor_false]

theorem blit_collided_iff (req : DrawReq) (p : Plane) :
    (blit req p).2 = true ↔ ∃ y x r c, pixelHits req y x r c ∧ Plane.cell p y x = true := by
  rw [blit, foldl_blitPixel_collided_iff (spritePixels_flipDistinctCells req)]
  simp only [Bool.false_eq_true, false_or, any_pixelFlips_iff_pixelHits, exists_and_right]

/-- Settles O52: the fold over the sprite's pixels flips a cell once when a pixel hits it, and collides on
the plane it began with. -/
theorem blitFlipsExactlyTheSpriteCells : Obligations.BlitFlipsExactlyTheSpriteCells :=
  fun req p => ⟨fun _ _ => cell_blit_of_hit p, fun _ _ => cell_blit_of_no_hit p, blit_collided_iff req p⟩

end Sys2Proof.Machine
end

section
/-! Host commands during a run (60_exceptions.md R219). Each of RESET, START and LOAD is guarded by
`State.inRun`, so in a run the step that takes it leaves the state the step started in. -/
namespace Sys2Proof.Machine

/-! ### The step that takes a host event -/

theorem step_of_event {s : State} {e : HostEvent} {rest : List HostEvent} (h : s.host = e :: rest) :
    step s = hostStep e (stepStart s rest) := by
  simp only [step, machineStep, h, stepStart]

/-! ### The guard of the commands -/

/-- The model's test for a run in progress is the opposite of `RunState.idle`. -/
theorem inRun_eq_not_idle (s : State) : s.inRun = !s.run.idle := by
  simp [State.inRun, RunState.idle]

@[simp] theorem stepStart_inRun (s : State) (rest : List HostEvent) : (stepStart s rest).inRun = s.inRun := rfl

theorem hostReset_of_inRun {s : State} (h : s.inRun = true) : hostReset s = s := if_pos h

theorem hostStart_of_inRun {s : State} (h : s.inRun = true) : hostStart s = s := if_pos h

theorem hostLoad_of_inRun {s : State} (image : List Byte) (h : s.inRun = true) : hostLoad image s = s :=
  if_pos (by rw [h, Bool.true_or])

/-- Settles O25: the guard of each command holds at the start of the step, so its host step is the
identity. -/
theorem commandsDuringARunHaveNoEffect : Obligations.CommandsDuringARunHaveNoEffect := by
  intro s image rest hidle hcommand
  have hrun : (stepStart s rest).inRun = true := by
    rw [stepStart_inRun, inRun_eq_not_idle, hidle, Bool.not_false]
  rcases hcommand with hreset | hstart | hload
  · exact (step_of_event hreset).trans (congrArg Host.Outcome.next (hostReset_of_inRun hrun))
  · exact (step_of_event hstart).trans (congrArg Host.Outcome.next (hostStart_of_inRun hrun))
  · exact (step_of_event hload).trans (congrArg Host.Outcome.next (hostLoad_of_inRun image hrun))

end Sys2Proof.Machine
end

section
/-! The templates of the table (30_encoding.md R81 to R86). A word fits a template when no literal of it
differs from its nibble; that is a mask-and-match test (R89). -/
namespace Sys2Proof
open Machine

/-! ### Words by their nibbles -/

theorem word_ext_nibbles {a b : Word} (h0 : nib0 a = nib0 b) (h1 : nib1 a = nib1 b)
    (h2 : nib2 a = nib2 b) (h3 : nib3 a = nib3 b) : a = b :=
  BitVec.eq_of_toNat_eq (by rw [word_eq_nibbles a, word_eq_nibbles b, h0, h1, h2, h3])

theorem nibble_and (a b k : Nat) :
    (a &&& b) / 2 ^ k % 16 = (a / 2 ^ k % 16) &&& (b / 2 ^ k % 16) := by
  rw [Nat.and_div_two_pow, show (16 : Nat) = 2 ^ 4 from rfl, Nat.and_mod_two_pow]

/-- The nibbles of a masked word are the masked nibbles. -/
theorem nibs_and (a b : Word) :
    (nib0 (a &&& b)).val = (nib0 a).val &&& (nib0 b).val
      ∧ (nib1 (a &&& b)).val = (nib1 a).val &&& (nib1 b).val
      ∧ (nib2 (a &&& b)).val = (nib2 a).val &&& (nib2 b).val
      ∧ (nib3 (a &&& b)).val = (nib3 a).val &&& (nib3 b).val := by
  simp only [nib0_val, nib1_val, nib2_val, nib3_val, BitVec.toNat_and]
  have h3 := nibble_and a.toNat b.toNat 0
  simp only [Nat.pow_zero, Nat.div_one] at h3
  exact ⟨nibble_and _ _ 12, nibble_and _ _ 8, nibble_and _ _ 4, h3⟩

/-! ### Fitting a template -/

/-- A literal is the nibble at its position; a placeholder takes any (30_encoding.md R83). -/
def charFits (c : Char) (n : Nibble) : Prop := ∀ v, litVal c = some v → v = n.val

/-- No literal of the template differs from its nibble (30_encoding.md R83). -/
def Template.fits (t : Template) (op : Word) : Prop := ¬literalDiffers t op

theorem charFits_of_lit {c : Char} {l : Nat} (h : litVal c = some l) (n : Nibble) :
    charFits c n ↔ n.val = l := by
  simp [charFits, h, eq_comm]

theorem charFits_of_letter {c : Char} (h : litVal c = none) (n : Nibble) : charFits c n := by
  simp [charFits, h]

theorem fits_iff (t : Template) (op : Word) :
    t.fits op ↔ charFits t.c0 (nib0 op) ∧ charFits t.c1 (nib1 op) ∧ charFits t.c2 (nib2 op)
      ∧ charFits t.c3 (nib3 op) := by
  simp [Template.fits, literalDiffers, Template.chars, nibbles, charFits]

theorem score_of_fits {t : Template} {op : Word} (h : t.fits op) : score t op = literalCount t :=
  score_eq_literalCount_of_not_literalDiffers h

theorem fits_of_one_le_score {t : Template} {op : Word} (h : 1 ≤ score t op) : t.fits op := by
  intro hd
  rw [score_eq_zero_of_literalDiffers hd] at h
  omega

theorem one_le_score_of_fits {r : Row} {op : Word} (hr : r ∈ templateRows) (h : r.template.fits op) :
    1 ≤ score r.template op :=
  score_of_fits h ▸ one_le_literalCount_of_first_literal (templateRows_first_literal r hr)

/-! ### A template as a mask and a match -/

/-- The mask of one position: all of a literal's nibble, nothing of a placeholder's. -/
def litMask (c : Char) : Nat := if (litVal c).isSome then 15 else 0

/-- The match value of one position. -/
def litBits (c : Char) : Nat := (litVal c).getD 0

/-- The mask of the template in the opcode table. -/
def Template.mask (t : Template) : Word :=
  BitVec.ofNat 16 (litMask t.c0 * 4096 + litMask t.c1 * 256 + litMask t.c2 * 16 + litMask t.c3)

/-- The match value of the template in the opcode table. -/
def Template.value (t : Template) : Word :=
  BitVec.ofNat 16 (litBits t.c0 * 4096 + litBits t.c1 * 256 + litBits t.c2 * 16 + litBits t.c3)

theorem litMask_lt (c : Char) : litMask c < 16 := by
  unfold litMask; split <;> decide

theorem litBits_lt (c : Char) : litBits c < 16 := by
  simp only [litBits, litVal]
  split
  · simp; omega
  · split
    · simp; omega
    · split
      · simp; omega
      · decide

theorem charFits_iff_mask (c : Char) (n : Nibble) : charFits c n ↔ n.val &&& litMask c = litBits c := by
  cases h : litVal c with
  | none => simp [charFits, litMask, litBits, h]
  | some v =>
    have hn : n.val &&& 15 = n.val := by
      rw [show 15 = 2 ^ 4 - 1 from rfl, Nat.and_two_pow_sub_one_of_lt_two_pow n.isLt]
    simp [charFits, litMask, litBits, h, hn, eq_comm]

/-- The nibbles of a word given by four nibbles. -/
theorem nibs_ofNat {a b c d : Nat} (ha : a < 16) (hb : b < 16) (hc : c < 16) (hd : d < 16) :
    (nib0 (BitVec.ofNat 16 (a * 4096 + b * 256 + c * 16 + d))).val = a
      ∧ (nib1 (BitVec.ofNat 16 (a * 4096 + b * 256 + c * 16 + d))).val = b
      ∧ (nib2 (BitVec.ofNat 16 (a * 4096 + b * 256 + c * 16 + d))).val = c
      ∧ (nib3 (BitVec.ofNat 16 (a * 4096 + b * 256 + c * 16 + d))).val = d := by
  simp only [nib0_val, nib1_val, nib2_val, nib3_val, BitVec.toNat_ofNat]
  omega

/-- The mask-and-match test of R89 is the matcher's test of R83. -/
theorem fits_iff_mask (t : Template) (op : Word) : t.fits op ↔ op &&& t.mask = t.value := by
  obtain ⟨m0, m1, m2, m3⟩ :=
    nibs_ofNat (litMask_lt t.c0) (litMask_lt t.c1) (litMask_lt t.c2) (litMask_lt t.c3)
  obtain ⟨v0, v1, v2, v3⟩ :=
    nibs_ofNat (litBits_lt t.c0) (litBits_lt t.c1) (litBits_lt t.c2) (litBits_lt t.c3)
  obtain ⟨a0, a1, a2, a3⟩ := nibs_and op t.mask
  have hnibs : op &&& t.mask = t.value ↔
      nib0 (op &&& t.mask) = nib0 t.value ∧ nib1 (op &&& t.mask) = nib1 t.value
        ∧ nib2 (op &&& t.mask) = nib2 t.value ∧ nib3 (op &&& t.mask) = nib3 t.value :=
    ⟨fun h => by simp [h], fun ⟨h0, h1, h2, h3⟩ => word_ext_nibbles h0 h1 h2 h3⟩
  rw [hnibs, fits_iff]
  simp only [Fin.ext_iff, charFits_iff_mask, a0, a1, a2, a3]
  simp only [Template.mask, Template.value, m0, m1, m2, m3, v0, v1, v2, v3]

/-! ### Which templates overlap -/

/-- Two masked tests on one word agree where their masks meet. -/
theorem value_and_mask_of_fits {t t' : Template} {op : Word} (h : t.fits op) (h' : t'.fits op) :
    t.value &&& t'.mask = t'.value &&& t.mask := by
  rw [fits_iff_mask] at h h'
  rw [← h, ← h', BitVec.and_assoc, BitVec.and_assoc, BitVec.and_comm t.mask]

/-- CLS and RET, the templates without a placeholder that lie under another (30_encoding.md R89). -/
def underSys (t : Template) : Bool := t.mask == 0xFFFF && (t.value == 0x00E0 || t.value == 0x00EE)

/-- R89 of the table: two templates whose masked tests can both hold are CLS or RET and another, with
different numbers of literals. -/
theorem templateRows_overlap : ∀ r ∈ templateRows, ∀ r' ∈ templateRows, r.template ≠ r'.template →
    r.template.value &&& r'.template.mask = r'.template.value &&& r.template.mask →
      (underSys r.template || underSys r'.template) = true
        ∧ literalCount r.template ≠ literalCount r'.template := by
  decide

theorem eq_of_underSys {t : Template} {op : Word} (hu : underSys t = true) (h : t.fits op) :
    op = 0x00E0 ∨ op = 0x00EE := by
  simp only [underSys, Bool.and_eq_true, Bool.or_eq_true, beq_iff_eq] at hu
  rw [fits_iff_mask, hu.1, show (0xFFFF : Word) = BitVec.allOnes 16 from rfl, BitVec.and_allOnes] at h
  exact h ▸ hu.2

/-- Settles O5: two templates that fit one word overlap, and the table's overlaps are those of CLS and
RET. -/
theorem templatesOverlapOnlyAtClsAndRet : Obligations.TemplatesOverlapOnlyAtClsAndRet := by
  intro op r r' hr hr' hne hs hs'
  have hf := fits_of_one_le_score hs
  have hf' := fits_of_one_le_score hs'
  obtain ⟨hunder, hcount⟩ := templateRows_overlap r hr r' hr' hne (value_and_mask_of_fits hf hf')
  refine ⟨by rwa [score_of_fits hf, score_of_fits hf'], ?_⟩
  rcases (Bool.or_eq_true _ _).mp hunder with hu | hu
  · exact eq_of_underSys hu hf
  · exact eq_of_underSys hu hf'

end Sys2Proof
end

section
/-! The decoder and the encoder (30_encoding.md R85 to R89). The matcher takes the row of the highest score;
but for 0x00E0 and 0x00EE that is the only row whose template the word fits. Each row reads its arguments
from the bits where the encoder puts them (`Row.Faithful`), so decoding and encoding undo each other. -/
namespace Sys2Proof
open Machine

/-! ### The best row -/

/-- The score of the best row so far, 0 when there is none (30_encoding.md R85). -/
def optScore (op : Word) : Option Row → Nat
  | none => 0
  | some r => score r.template op

theorem optScore_some (op : Word) (r : Row) : optScore op (some r) = score r.template op := rfl

/-- The loop keeps the best row it began with or takes one with a positive score, and no row it tries has
a higher one. -/
theorem bestOf_spec (op : Word) (best : Option Row) (l : List Row) :
    optScore op best ≤ optScore op (bestOf op best (optScore op best) l)
      ∧ (∀ r ∈ l, score r.template op ≤ optScore op (bestOf op best (optScore op best) l))
      ∧ (bestOf op best (optScore op best) l = best
          ∨ ∃ r ∈ l, bestOf op best (optScore op best) l = some r ∧ 0 < score r.template op) := by
  induction l generalizing best with
  | nil => simp [bestOf]
  | cons r l ih =>
    unfold bestOf
    split
    · next hlt =>
      obtain ⟨hle, hall, hres⟩ := ih (some r)
      rw [optScore_some] at hle hall hres
      refine ⟨by omega, List.forall_mem_cons.mpr ⟨hle, hall⟩, .inr ?_⟩
      rcases hres with hbest | ⟨r', hmem, hr'⟩
      · exact ⟨r, List.mem_cons_self, hbest, by omega⟩
      · exact ⟨r', List.mem_cons_of_mem _ hmem, hr'⟩
    · next hge =>
      obtain ⟨hle, hall, hres⟩ := ih best
      refine ⟨hle, List.forall_mem_cons.mpr ⟨by omega, hall⟩, hres.imp_right ?_⟩
      rintro ⟨r', hmem, hr'⟩
      exact ⟨r', List.mem_cons_of_mem _ hmem, hr'⟩

/-- The matcher's row fits the word, and no row of the table scores higher. -/
theorem fits_of_bestRow {op : Word} {r : Row} (h : bestRow op = some r) :
    r ∈ templateRows ∧ r.template.fits op
      ∧ ∀ r' ∈ templateRows, score r'.template op ≤ score r.template op := by
  obtain ⟨-, hall, hres⟩ := bestOf_spec op none templateRows
  change (∀ r' ∈ templateRows, _ ≤ optScore op (bestRow op)) at hall
  change bestRow op = none ∨ ∃ r' ∈ templateRows, bestRow op = some r' ∧ _ at hres
  rw [h] at hall hres
  obtain hnone | ⟨r', hmem, heq, hpos⟩ := hres
  · cases hnone
  · cases heq
    exact ⟨hmem, fits_of_one_le_score hpos, hall⟩

/-- A word that fits a row has a best row. -/
theorem bestRow_isSome_of_fits {op : Word} {r : Row} (hr : r ∈ templateRows) (h : r.template.fits op) :
    ∃ r', bestRow op = some r' := by
  obtain ⟨-, hall, -⟩ := bestOf_spec op none templateRows
  have hle : score r.template op ≤ optScore op (bestRow op) := hall r hr
  have hone := one_le_score_of_fits hr h
  cases hbest : bestRow op with
  | none => rw [hbest] at hle; exact absurd (hone.trans hle) (by simp [optScore])
  | some r' => exact ⟨r', rfl⟩

theorem templateRows_nodup : (templateRows.map Row.template).Nodup := by decide

/-- But for 0x00E0 and 0x00EE, a word fits at most one row (30_encoding.md R89). -/
theorem row_unique {op : Word} {r r' : Row} (hE0 : op ≠ 0x00E0) (hEE : op ≠ 0x00EE)
    (hr : r ∈ templateRows) (hr' : r' ∈ templateRows) (h : r.template.fits op)
    (h' : r'.template.fits op) : r = r' := by
  refine List.inj_on_of_nodup_map templateRows_nodup hr hr' (by_contra fun hne => ?_)
  have := (templatesOverlapOnlyAtClsAndRet op r r' hr hr' hne (one_le_score_of_fits hr h)
    (one_le_score_of_fits hr' h')).2
  exact this.elim hE0 hEE

/-! ### The decoder's two answers -/

theorem decodeOp_CLS : decodeOp 0x00E0 = .ok .cls := by decide

theorem decodeOp_RET : decodeOp 0x00EE = .ok .ret := by decide

theorem decodeOp_of_bestRow {op : Word} {r : Row} (h0 : op ≠ 0x0000) (h : bestRow op = some r) :
    decodeOp op = .ok (r.build (getArgument r.template op)) := by
  simp only [decodeOp, h0, h, if_false]

theorem decodeOp_of_no_bestRow {op : Word} (h0 : op ≠ 0x0000) (h : bestRow op = none) :
    decodeOp op = .error .noTemplate := by
  simp only [decodeOp, h0, h, if_false]

/-- What decodes is built from a row the word fits. -/
theorem row_of_decodeOp {op : Word} {i : Instr} (h : decodeOp op = .ok i) :
    op ≠ 0x0000 ∧ ∃ r ∈ templateRows, r.template.fits op ∧ r.build (getArgument r.template op) = i := by
  by_cases h0 : op = 0x0000
  · simp [decodeOp, h0] at h
  · refine ⟨h0, ?_⟩
    cases hbest : bestRow op with
    | none => rw [decodeOp_of_no_bestRow h0 hbest] at h; cases h
    | some r =>
      obtain ⟨hr, hfit, -⟩ := fits_of_bestRow hbest
      rw [decodeOp_of_bestRow h0 hbest] at h
      exact ⟨r, hr, hfit, Except.ok.inj h⟩

/-- But for the three words of R89 and R101, a word that fits a row decodes to what the row builds. -/
theorem decodeOp_of_fits {op : Word} {r : Row} (h0 : op ≠ 0x0000) (hE0 : op ≠ 0x00E0) (hEE : op ≠ 0x00EE)
    (hr : r ∈ templateRows) (h : r.template.fits op) :
    decodeOp op = .ok (r.build (getArgument r.template op)) := by
  obtain ⟨r', hbest⟩ := bestRow_isSome_of_fits hr h
  obtain ⟨hr', hfit, -⟩ := fits_of_bestRow hbest
  rw [row_unique hE0 hEE hr hr' h hfit]
  exact decodeOp_of_bestRow h0 hbest

theorem decodeOp_isOk_of_fits {op : Word} {r : Row} (h0 : op ≠ 0x0000) (hr : r ∈ templateRows)
    (h : r.template.fits op) : ∃ i, decodeOp op = .ok i := by
  obtain ⟨r', hbest⟩ := bestRow_isSome_of_fits hr h
  exact ⟨_, decodeOp_of_bestRow h0 hbest⟩

/-! ### The arguments as bit fields -/

theorem getArgument_of_absent {t : Template} {c : Char} (op : Word) (h : c ∉ t.chars) :
    getArgument t op c = 0 := by
  simp only [Template.chars, List.mem_cons, List.not_mem_nil, not_or] at h
  obtain ⟨h0, h1, h2, h3, -⟩ := h
  simp [getArgument, Template.chars, nibbles, Ne.symm h0, Ne.symm h1, Ne.symm h2, Ne.symm h3]

/-- The positions of a template that carry a letter. -/
def Template.carries (t : Template) (c : Char) : List Bool := t.chars.map (· == c)

/-- The arguments by the positions that carry their letter (30_encoding.md R86). -/
theorem getArgument_of_carries {t : Template} {c : Char} {b0 b1 b2 b3 : Bool} (op : Word)
    (h : t.carries c = [b0, b1, b2, b3]) :
    getArgument t op c = ([(b0, nib0 op), (b1, nib1 op), (b2, nib2 op), (b3, nib3 op)]).foldl
      (fun acc p => if p.1 then acc * 16 + p.2.val else acc) 0 := by
  simp only [Template.carries, Template.chars, List.map_cons, List.map_nil, List.cons.injEq] at h
  obtain ⟨rfl, rfl, rfl, rfl, -⟩ := h
  simp [getArgument, Template.chars, nibbles]

theorem getArgument_second {t : Template} {c : Char} (op : Word)
    (h : t.carries c = [false, true, false, false]) : getArgument t op c = op.toNat / 256 % 16 := by
  simp [getArgument_of_carries op h, nib1_val]

theorem getArgument_third {t : Template} {c : Char} (op : Word)
    (h : t.carries c = [false, false, true, false]) : getArgument t op c = op.toNat / 16 % 16 := by
  simp [getArgument_of_carries op h, nib2_val]

theorem getArgument_fourth {t : Template} {c : Char} (op : Word)
    (h : t.carries c = [false, false, false, true]) : getArgument t op c = op.toNat % 16 := by
  simp [getArgument_of_carries op h, nib3_val]

theorem getArgument_lastTwo {t : Template} {c : Char} (op : Word)
    (h : t.carries c = [false, false, true, true]) : getArgument t op c = op.toNat % 256 := by
  simp [getArgument_of_carries op h, nib2_val, nib3_val]
  omega

theorem getArgument_lastThree {t : Template} {c : Char} (op : Word)
    (h : t.carries c = [false, true, true, true]) : getArgument t op c = op.toNat % 4096 := by
  simp [getArgument_of_carries op h, nib1_val, nib2_val, nib3_val]
  omega

/-- Where the templates of the table carry their letters (30_encoding.md R86). -/
theorem templateRows_carries : ∀ r ∈ templateRows,
    ('x' ∈ r.template.chars → r.template.carries 'x' = [false, true, false, false])
    ∧ ('y' ∈ r.template.chars → r.template.carries 'y' = [false, false, true, false])
    ∧ ('k' ∈ r.template.chars → r.template.carries 'k' = [false, false, true, true])
    ∧ ('n' ∈ r.template.chars → r.template.carries 'n' =
        if r.template.c0 = 'D' then [false, false, false, true] else [false, true, true, true]) := by
  decide

/-- Settles O7: each letter stands at the same positions in every template that has it, `n` in two
places. -/
theorem argumentsAreBitFields : Obligations.ArgumentsAreBitFields := by
  intro op r hr
  obtain ⟨hx, hy, hk, hn⟩ := templateRows_carries r hr
  refine ⟨?_, ?_, ?_, ?_, fun c hc => getArgument_of_absent op hc⟩
  · split
    · next h => exact getArgument_second op (hx h)
    · next h => exact getArgument_of_absent op h
  · split
    · next h => exact getArgument_third op (hy h)
    · next h => exact getArgument_of_absent op h
  · split
    · next h => exact getArgument_lastTwo op (hk h)
    · next h => exact getArgument_of_absent op h
  · split
    · next h =>
      have hcar := hn h
      split at hcar
      · next hD => rw [if_pos hD]; exact getArgument_fourth op hcar
      · next hD => rw [if_neg hD]; exact getArgument_lastThree op hcar
    · next h => exact getArgument_of_absent op h

end Sys2Proof
end

section
/-! Decoding and encoding undo each other (30_encoding.md R84 to R87). For each format of R87, a row of that
format reads its arguments from the bits where the encoder puts them (`Row.Faithful`). -/
namespace Sys2Proof
open Machine

/-! ### The arguments of a row are the fields of the word -/

theorem argX_eq_fieldX {t : Template} (op : Word) (h : t.carries 'x' = [false, true, false, false]) :
    argX (getArgument t op) = fieldX op := by
  rw [argX, getArgument_second op h]
  exact Fin.ext (Nat.mod_mod _ _)

theorem argY_eq_fieldY {t : Template} (op : Word) (h : t.carries 'y' = [false, false, true, false]) :
    argY (getArgument t op) = fieldY op := by
  rw [argY, getArgument_third op h]
  exact Fin.ext (Nat.mod_mod _ _)

theorem argKK_eq_fieldKK {t : Template} (op : Word) (h : t.carries 'k' = [false, false, true, true]) :
    argKK (getArgument t op) = fieldKK op := by
  rw [argKK, getArgument_lastTwo op h, fieldKK]
  exact BitVec.eq_of_toNat_eq (by simp)

theorem argNNN_eq_fieldNNN {t : Template} (op : Word) (h : t.carries 'n' = [false, true, true, true]) :
    argNNN (getArgument t op) = fieldNNN op := by
  rw [argNNN, getArgument_lastThree op h, fieldNNN]
  exact BitVec.eq_of_toNat_eq (by simp)

theorem argN_eq_fieldN {t : Template} (op : Word) (h : t.carries 'n' = [false, false, false, true]) :
    argN (getArgument t op) = fieldN op := by
  rw [argN, getArgument_fourth op h]
  exact Fin.ext (Nat.mod_mod _ _)

/-! ### The words of each format -/

theorem fieldX_val (op : Word) : (fieldX op).val = (nib1 op).val := rfl
theorem fieldY_val (op : Word) : (fieldY op).val = (nib2 op).val := rfl
theorem fieldN_val (op : Word) : (fieldN op).val = (nib3 op).val := rfl

theorem fieldKK_toNat (op : Word) : (fieldKK op).toNat = (nib2 op).val * 16 + (nib3 op).val := by
  rw [fieldKK, BitVec.toNat_ofNat, nib2_val, nib3_val]; omega

theorem fieldNNN_toNat (op : Word) :
    (fieldNNN op).toNat = (nib1 op).val * 256 + (nib2 op).val * 16 + (nib3 op).val := by
  rw [fieldNNN, BitVec.toNat_ofNat, nib1_val, nib2_val, nib3_val]; omega

theorem encNNN_of_nibbles {op : Word} {l : Nat} (h0 : (nib0 op).val = l) :
    encNNN l (fieldNNN op) = op := by
  apply BitVec.eq_of_toNat_eq
  rw [encNNN_toNat _ _ (h0 ▸ Fin.isLt _), fieldNNN_toNat, word_eq_nibbles op]; omega

theorem encXKK_of_nibbles {op : Word} {l : Nat} (h0 : (nib0 op).val = l) :
    encXKK l (fieldX op) (fieldKK op) = op := by
  apply BitVec.eq_of_toNat_eq
  rw [encXKK_toNat _ _ _ (h0 ▸ Fin.isLt _), fieldKK_toNat, fieldX_val, word_eq_nibbles op]; omega

theorem encXYN_of_nibbles {op : Word} {l n : Nat} (h0 : (nib0 op).val = l) (h3 : (nib3 op).val = n) :
    encXYN l (fieldX op) (fieldY op) n = op := by
  apply BitVec.eq_of_toNat_eq
  rw [encXYN_toNat _ _ _ _ (h0 ▸ Fin.isLt _) (h3 ▸ Fin.isLt _), fieldX_val, fieldY_val,
    word_eq_nibbles op]
  omega

theorem encXLL_of_nibbles {op : Word} {l a b : Nat} (h0 : (nib0 op).val = l) (h2 : (nib2 op).val = a)
    (h3 : (nib3 op).val = b) : encXLL l (fieldX op) (a * 16 + b) = op := by
  apply BitVec.eq_of_toNat_eq
  rw [encXLL_toNat _ _ _ (h0 ▸ Fin.isLt _) (by omega), fieldX_val, word_eq_nibbles op]
  omega

/-! ### A row of each format is faithful -/

theorem litVal_lt {c : Char} {l : Nat} (h : litVal c = some l) : l < 16 := by
  have := litBits_lt c
  rwa [litBits, h] at this

/-- A literal is none of the letters of R86. -/
theorem ne_letters_of_lit {c : Char} {l : Nat} (h : litVal c = some l) :
    c ≠ 'x' ∧ c ≠ 'y' ∧ c ≠ 'k' ∧ c ≠ 'n' := by
  refine ⟨?_, ?_, ?_, ?_⟩ <;> rintro rfl <;> cases h

@[simp] theorem charFits_x (n : Nibble) : charFits 'x' n := charFits_of_letter rfl n
@[simp] theorem charFits_y (n : Nibble) : charFits 'y' n := charFits_of_letter rfl n
@[simp] theorem charFits_k (n : Nibble) : charFits 'k' n := charFits_of_letter rfl n
@[simp] theorem charFits_n (n : Nibble) : charFits 'n' n := charFits_of_letter rfl n

/-- The row and the encoder agree: a word that fits is encoded by what the row builds of it, and what the
row builds is read back from its encoding. -/
structure Row.Faithful (r : Row) : Prop where
  encode_build : ∀ op, r.template.fits op → encode (r.build (getArgument r.template op)) = op
  fits_encode : ∀ arg, r.template.fits (encode (r.build arg))
  build_encode : ∀ arg, r.build (getArgument r.template (encode (r.build arg))) = r.build arg

theorem faithful_NNN {c : Char} {l : Nat} {mk : Addr → Instr} (hc : litVal c = some l)
    (henc : ∀ nnn, encode (mk nnn) = encNNN l nnn) :
    Row.Faithful ⟨⟨c, 'n', 'n', 'n'⟩, fun a => mk (argNNN a)⟩ := by
  have hargs : ∀ op, argNNN (getArgument ⟨c, 'n', 'n', 'n'⟩ op) = fieldNNN op := fun op =>
    argNNN_eq_fieldNNN op (by simp [Template.carries, Template.chars, ne_letters_of_lit hc])
  have hfits : ∀ op, Template.fits ⟨c, 'n', 'n', 'n'⟩ op ↔ (nib0 op).val = l := fun op => by
    simp [fits_iff, charFits_of_lit hc]
  refine ⟨fun op h => ?_, fun arg => ?_, fun arg => ?_⟩
  · rw [henc, hargs, encNNN_of_nibbles ((hfits op).mp h)]
  · rw [henc, hfits, (encNNN_fields l _ (litVal_lt hc)).1, Fin.val_ofNat, Nat.mod_eq_of_lt (litVal_lt hc)]
  · simp only [henc, hargs, (encNNN_fields l _ (litVal_lt hc)).2]

theorem faithful_XKK {c : Char} {l : Nat} {mk : Reg → Byte → Instr} (hc : litVal c = some l)
    (henc : ∀ x kk, encode (mk x kk) = encXKK l x kk) :
    Row.Faithful ⟨⟨c, 'x', 'k', 'k'⟩, fun a => mk (argX a) (argKK a)⟩ := by
  have hx : ∀ op, argX (getArgument ⟨c, 'x', 'k', 'k'⟩ op) = fieldX op := fun op =>
    argX_eq_fieldX op (by simp [Template.carries, Template.chars, ne_letters_of_lit hc])
  have hk : ∀ op, argKK (getArgument ⟨c, 'x', 'k', 'k'⟩ op) = fieldKK op := fun op =>
    argKK_eq_fieldKK op (by simp [Template.carries, Template.chars, ne_letters_of_lit hc])
  have hfits : ∀ op, Template.fits ⟨c, 'x', 'k', 'k'⟩ op ↔ (nib0 op).val = l := fun op => by
    simp [fits_iff, charFits_of_lit hc]
  refine ⟨fun op h => ?_, fun arg => ?_, fun arg => ?_⟩
  · rw [henc, hx, hk, encXKK_of_nibbles ((hfits op).mp h)]
  · rw [henc, hfits, (encXKK_fields l _ _ (litVal_lt hc)).1, Fin.val_ofNat, Nat.mod_eq_of_lt (litVal_lt hc)]
  · obtain ⟨-, hx', hk'⟩ := encXKK_fields l (argX arg) (argKK arg) (litVal_lt hc)
    simp only [henc, hx, hk, hx', hk']

theorem faithful_XYL {c d : Char} {l n : Nat} {mk : Reg → Reg → Instr} (hc : litVal c = some l)
    (hd : litVal d = some n) (henc : ∀ x y, encode (mk x y) = encXYN l x y n) :
    Row.Faithful ⟨⟨c, 'x', 'y', d⟩, fun a => mk (argX a) (argY a)⟩ := by
  have hx : ∀ op, argX (getArgument ⟨c, 'x', 'y', d⟩ op) = fieldX op := fun op =>
    argX_eq_fieldX op (by
      simp [Template.carries, Template.chars, ne_letters_of_lit hc, ne_letters_of_lit hd])
  have hy : ∀ op, argY (getArgument ⟨c, 'x', 'y', d⟩ op) = fieldY op := fun op =>
    argY_eq_fieldY op (by
      simp [Template.carries, Template.chars, ne_letters_of_lit hc, ne_letters_of_lit hd])
  have hfits : ∀ op, Template.fits ⟨c, 'x', 'y', d⟩ op ↔ (nib0 op).val = l ∧ (nib3 op).val = n := fun op => by
    simp [fits_iff, charFits_of_lit hc, charFits_of_lit hd]
  refine ⟨fun op h => ?_, fun arg => ?_, fun arg => ?_⟩
  · rw [henc, hx, hy, encXYN_of_nibbles ((hfits op).mp h).1 ((hfits op).mp h).2]
  · obtain ⟨h0, -, -, h3⟩ := encXYN_fields l (argX arg) (argY arg) n (litVal_lt hc) (litVal_lt hd)
    rw [henc, hfits, h0, ← fieldN_val, h3, Fin.val_ofNat, Fin.val_ofNat,
      Nat.mod_eq_of_lt (litVal_lt hc), Nat.mod_eq_of_lt (litVal_lt hd)]
    exact ⟨rfl, rfl⟩
  · obtain ⟨-, hx', hy', -⟩ := encXYN_fields l (argX arg) (argY arg) n (litVal_lt hc) (litVal_lt hd)
    simp only [henc, hx, hy, hx', hy']

theorem faithful_XYN {c : Char} {l : Nat} {mk : Reg → Reg → Nibble → Instr} (hc : litVal c = some l)
    (henc : ∀ x y n, encode (mk x y n) = encXYN l x y n.val) :
    Row.Faithful ⟨⟨c, 'x', 'y', 'n'⟩, fun a => mk (argX a) (argY a) (argN a)⟩ := by
  have hx : ∀ op, argX (getArgument ⟨c, 'x', 'y', 'n'⟩ op) = fieldX op := fun op =>
    argX_eq_fieldX op (by simp [Template.carries, Template.chars, ne_letters_of_lit hc])
  have hy : ∀ op, argY (getArgument ⟨c, 'x', 'y', 'n'⟩ op) = fieldY op := fun op =>
    argY_eq_fieldY op (by simp [Template.carries, Template.chars, ne_letters_of_lit hc])
  have hn : ∀ op, argN (getArgument ⟨c, 'x', 'y', 'n'⟩ op) = fieldN op := fun op =>
    argN_eq_fieldN op (by simp [Template.carries, Template.chars, ne_letters_of_lit hc])
  have hfits : ∀ op, Template.fits ⟨c, 'x', 'y', 'n'⟩ op ↔ (nib0 op).val = l := fun op => by
    simp [fits_iff, charFits_of_lit hc]
  refine ⟨fun op h => ?_, fun arg => ?_, fun arg => ?_⟩
  · rw [henc, hx, hy, hn]
    exact encXYN_of_nibbles ((hfits op).mp h) rfl
  · obtain ⟨h0, -⟩ := encXYN_fields l (argX arg) (argY arg) _ (litVal_lt hc) (argN arg).isLt
    rw [henc, hfits, h0, Fin.val_ofNat, Nat.mod_eq_of_lt (litVal_lt hc)]
  · obtain ⟨-, hx', hy', hn'⟩ := encXYN_fields l (argX arg) (argY arg) _ (litVal_lt hc) (argN arg).isLt
    simp only [henc, hx, hy, hn, hx', hy', hn', Fin.ofNat_val_eq_self]

theorem faithful_XLL {c d e : Char} {l a b : Nat} {mk : Reg → Instr} (hc : litVal c = some l)
    (hd : litVal d = some a) (he : litVal e = some b)
    (henc : ∀ x, encode (mk x) = encXLL l x (a * 16 + b)) :
    Row.Faithful ⟨⟨c, 'x', d, e⟩, fun arg => mk (argX arg)⟩ := by
  have hx : ∀ op, argX (getArgument ⟨c, 'x', d, e⟩ op) = fieldX op := fun op =>
    argX_eq_fieldX op (by simp [Template.carries, Template.chars, ne_letters_of_lit hc,
      ne_letters_of_lit hd, ne_letters_of_lit he])
  have hfits : ∀ op, Template.fits ⟨c, 'x', d, e⟩ op ↔
      (nib0 op).val = l ∧ (nib2 op).val = a ∧ (nib3 op).val = b := fun op => by
    simp [fits_iff, charFits_of_lit hc, charFits_of_lit hd, charFits_of_lit he]
  have ha := litVal_lt hd
  have hb := litVal_lt he
  refine ⟨fun op h => ?_, fun arg => ?_, fun arg => ?_⟩
  · obtain ⟨h0, h2, h3⟩ := (hfits op).mp h
    rw [henc, hx, encXLL_of_nibbles h0 h2 h3]
  · obtain ⟨h0, -, hkk⟩ := encXLL_fields l (argX arg) (a * 16 + b) (litVal_lt hc) (by omega)
    have hlow := congrArg BitVec.toNat hkk
    rw [fieldKK_toNat, BitVec.toNat_ofNat] at hlow
    rw [henc, hfits, h0, Fin.val_ofNat, Nat.mod_eq_of_lt (litVal_lt hc)]
    omega
  · obtain ⟨-, hx', -⟩ := encXLL_fields l (argX arg) (a * 16 + b) (litVal_lt hc) (by omega)
    simp only [henc, hx, hx']

/-- A row without placeholders. -/
theorem faithful_fixed {t : Template} {i : Instr} (hmask : t.mask = 0xFFFF) (hval : t.value = encode i) :
    Row.Faithful ⟨t, fun _ => i⟩ := by
  have hfits : ∀ op, t.fits op ↔ op = encode i := fun op => by
    rw [fits_iff_mask, hmask, hval, show (0xFFFF : Word) = BitVec.allOnes 16 from rfl, BitVec.and_allOnes]
  exact ⟨fun op h => ((hfits op).mp h).symm, fun _ => (hfits _).mpr rfl, fun _ => rfl⟩

end Sys2Proof
end

section
/-! The round trips (30_encoding.md R84 to R89): every row of the table is faithful and every instruction is
built by a row, so a word decodes to the well-formed instruction that encodes to it. -/
namespace Sys2Proof
open Machine

/-! ### The table -/

theorem rows1_faithful : ∀ r ∈ rows1, r.Faithful := by
  simp only [rows1, List.forall_mem_cons, List.not_mem_nil, false_implies, implies_true, and_true]
  exact ⟨faithful_fixed rfl rfl, faithful_fixed rfl rfl, faithful_NNN rfl fun _ => rfl,
    faithful_NNN rfl fun _ => rfl, faithful_NNN rfl fun _ => rfl, faithful_XKK rfl fun _ _ => rfl,
    faithful_XKK rfl fun _ _ => rfl, faithful_XYL rfl rfl fun _ _ => rfl,
    faithful_XKK rfl fun _ _ => rfl, faithful_XKK rfl fun _ _ => rfl⟩

theorem rows2_faithful : ∀ r ∈ rows2, r.Faithful := by
  simp only [rows2, List.forall_mem_cons, List.not_mem_nil, false_implies, implies_true, and_true]
  refine ⟨?_, ?_, ?_, ?_, ?_, ?_, ?_, ?_, ?_⟩ <;> exact faithful_XYL rfl rfl fun _ _ => rfl

theorem rows3_faithful : ∀ r ∈ rows3, r.Faithful := by
  simp only [rows3, List.forall_mem_cons, List.not_mem_nil, false_implies, implies_true, and_true]
  exact ⟨faithful_XYL rfl rfl fun _ _ => rfl, faithful_NNN rfl fun _ => rfl,
    faithful_NNN rfl fun _ => rfl, faithful_XKK rfl fun _ _ => rfl, faithful_XYN rfl fun _ _ _ => rfl,
    faithful_XLL rfl rfl rfl fun _ => rfl, faithful_XLL rfl rfl rfl fun _ => rfl⟩

theorem rows4_faithful : ∀ r ∈ rows4, r.Faithful := by
  simp only [rows4, List.forall_mem_cons, List.not_mem_nil, false_implies, implies_true, and_true]
  refine ⟨?_, ?_, ?_, ?_, ?_, ?_, ?_, ?_, ?_, faithful_fixed rfl rfl⟩ <;>
    exact faithful_XLL rfl rfl rfl fun _ => rfl

theorem templateRows_faithful {r : Row} (hr : r ∈ templateRows) : r.Faithful := by
  simp only [templateRows, List.mem_append] at hr
  obtain ((hr | hr) | hr) | hr := hr
  · exact rows1_faithful r hr
  · exact rows2_faithful r hr
  · exact rows3_faithful r hr
  · exact rows4_faithful r hr

/-! ### Every instruction is built by a row -/

/-- Some row of the table builds the instruction of some arguments. -/
def Instr.built (i : Instr) : Prop := ∃ r ∈ templateRows, ∃ arg, r.build arg = i

/-- Arguments by their letters; `k` and `n` share the last one. -/
def argsXYN (x y : Reg) (n : Nat) (c : Char) : Nat :=
  if c = 'x' then x.val else if c = 'y' then y.val else n

/-- The row numbered `k`, counted from 0. -/
theorem row_mem (k : Nat) (h : k < templateRows.length) : templateRows[k] ∈ templateRows :=
  List.getElem_mem h

variable {t : Template}

theorem built_fixed {i : Instr} (h : ⟨t, fun _ => i⟩ ∈ templateRows) : i.built :=
  ⟨_, h, argsXYN 0 0 0, rfl⟩

theorem built_NNN {mk : Addr → Instr} (h : ⟨t, fun a => mk (argNNN a)⟩ ∈ templateRows) (nnn : Addr) :
    (mk nnn).built :=
  ⟨_, h, argsXYN 0 0 nnn.toNat, congrArg mk (BitVec.ofNat_toNat 12 nnn |>.trans nnn.setWidth_eq)⟩

theorem built_X {mk : Reg → Instr} (h : ⟨t, fun a => mk (argX a)⟩ ∈ templateRows) (x : Reg) :
    (mk x).built :=
  ⟨_, h, argsXYN x 0 0, congrArg mk (Fin.ofNat_val_eq_self x)⟩

theorem built_XKK {mk : Reg → Byte → Instr} (h : ⟨t, fun a => mk (argX a) (argKK a)⟩ ∈ templateRows)
    (x : Reg) (kk : Byte) : (mk x kk).built :=
  ⟨_, h, argsXYN x 0 kk.toNat, congrArg₂ mk (Fin.ofNat_val_eq_self x)
    (BitVec.ofNat_toNat 8 kk |>.trans kk.setWidth_eq)⟩

theorem built_XY {mk : Reg → Reg → Instr} (h : ⟨t, fun a => mk (argX a) (argY a)⟩ ∈ templateRows)
    (x y : Reg) : (mk x y).built :=
  ⟨_, h, argsXYN x y 0, congrArg₂ mk (Fin.ofNat_val_eq_self x) (Fin.ofNat_val_eq_self y)⟩

theorem built_XYN {mk : Reg → Reg → Nibble → Instr}
    (h : ⟨t, fun a => mk (argX a) (argY a) (argN a)⟩ ∈ templateRows) (x y : Reg) (n : Nibble) :
    (mk x y n).built :=
  ⟨_, h, argsXYN x y n.val, congr (congrArg₂ mk (Fin.ofNat_val_eq_self x) (Fin.ofNat_val_eq_self y))
    (Fin.ofNat_val_eq_self n)⟩

theorem instr_built (i : Instr) : i.built := by
  cases i with
  | cls => exact built_fixed (row_mem 0 (by decide))
  | ret => exact built_fixed (row_mem 1 (by decide))
  | sys nnn => exact built_NNN (row_mem 2 (by decide)) nnn
  | jp nnn => exact built_NNN (row_mem 3 (by decide)) nnn
  | call nnn => exact built_NNN (row_mem 4 (by decide)) nnn
  | se x kk => exact built_XKK (row_mem 5 (by decide)) x kk
  | sne x kk => exact built_XKK (row_mem 6 (by decide)) x kk
  | sev x y => exact built_XY (row_mem 7 (by decide)) x y
  | ld x kk => exact built_XKK (row_mem 8 (by decide)) x kk
  | add x kk => exact built_XKK (row_mem 9 (by decide)) x kk
  | ldv x y => exact built_XY (row_mem 10 (by decide)) x y
  | or x y => exact built_XY (row_mem 11 (by decide)) x y
  | and x y => exact built_XY (row_mem 12 (by decide)) x y
  | xor x y => exact built_XY (row_mem 13 (by decide)) x y
  | addv x y => exact built_XY (row_mem 14 (by decide)) x y
  | sub x y => exact built_XY (row_mem 15 (by decide)) x y
  | shr x y => exact built_XY (row_mem 16 (by decide)) x y
  | subn x y => exact built_XY (row_mem 17 (by decide)) x y
  | shl x y => exact built_XY (row_mem 18 (by decide)) x y
  | snev x y => exact built_XY (row_mem 19 (by decide)) x y
  | ldi nnn => exact built_NNN (row_mem 20 (by decide)) nnn
  | jpv0 nnn => exact built_NNN (row_mem 21 (by decide)) nnn
  | rnd x kk => exact built_XKK (row_mem 22 (by decide)) x kk
  | drw x y n => exact built_XYN (row_mem 23 (by decide)) x y n
  | skp x => exact built_X (row_mem 24 (by decide)) x
  | sknp x => exact built_X (row_mem 25 (by decide)) x
  | lddt x => exact built_X (row_mem 26 (by decide)) x
  | ldkp x => exact built_X (row_mem 27 (by decide)) x
  | stdt x => exact built_X (row_mem 28 (by decide)) x
  | stst x => exact built_X (row_mem 29 (by decide)) x
  | addi x => exact built_X (row_mem 30 (by decide)) x
  | ldf x => exact built_X (row_mem 31 (by decide)) x
  | ldbc x => exact built_X (row_mem 32 (by decide)) x
  | ldmw x => exact built_X (row_mem 33 (by decide)) x
  | ldmr x => exact built_X (row_mem 34 (by decide)) x
  | assert => exact built_fixed (row_mem 35 (by decide))

/-- Every instruction's word fits a row that reads it back. -/
theorem row_of_encode (i : Instr) : ∃ r ∈ templateRows, r.template.fits (encode i)
    ∧ r.build (getArgument r.template (encode i)) = i := by
  obtain ⟨r, hr, arg, rfl⟩ := instr_built i
  have hf := templateRows_faithful hr
  exact ⟨r, hr, hf.fits_encode arg, hf.build_encode arg⟩

/-! ### The three words of R89 and R101 -/

/-- Only SYS has terms without a word of their own (40_flow.md R130). -/
theorem not_wellFormed_cases {i : Instr} (h : i.wellFormed = false) :
    i = .sys 0x000 ∨ i = .sys 0x0E0 ∨ i = .sys 0x0EE := by
  cases i with
  | sys nnn =>
    simp only [Instr.wellFormed, sysTarget, Bool.and_eq_false_iff, bne_eq_false_iff_eq] at h
    simpa [or_assoc] using h
  | _ => cases h

/-- Only CLS, RET and SYS have the leading nibble 0. -/
theorem row_of_nib0_eq_zero {op : Word} {r : Row} (hr : r ∈ templateRows) (h : r.template.fits op)
    (h0 : nib0 op = 0) : r ∈ templateRows.take 3 := by
  have hrest : ∀ r ∈ templateRows.drop 3, ¬charFits r.template.c0 0 := by
    simp only [charFits_iff_mask]; decide
  rw [← List.take_append_drop 3 templateRows] at hr
  obtain hr | hr := List.mem_append.mp hr
  · exact hr
  · exact absurd (h0 ▸ ((fits_iff _ _).mp h).1) (hrest r hr)

/-- The word of a well-formed instruction other than CLS and RET is none of the three. -/
theorem encode_ne_of_wellFormed {i : Instr} {w : Word} (hwf : i.wellFormed = true) (hcls : i ≠ .cls)
    (hret : i ≠ .ret) (hw : w = 0x0000 ∨ w = 0x00E0 ∨ w = 0x00EE) : encode i ≠ w := by
  intro he
  obtain ⟨r, hr, hfit, hbuild⟩ := row_of_encode i
  rw [he] at hfit hbuild
  have hnib : nib0 w = 0 := by rcases hw with rfl | rfl | rfl <;> rfl
  have hr3 := row_of_nib0_eq_zero hr hfit hnib
  simp only [templateRows, rows1, List.cons_append, List.take_succ_cons, List.take_zero, List.mem_cons,
    List.not_mem_nil, or_false] at hr3
  rcases hr3 with rfl | rfl | rfl
  · exact hcls hbuild.symm
  · exact hret hbuild.symm
  · subst hbuild
    rcases hw with rfl | rfl | rfl <;> cases hwf

/-! ### Decode after encode, encode after decode -/

theorem decodeOp_encode {i : Instr} (hwf : i.wellFormed = true) : decodeOp (encode i) = .ok i := by
  by_cases hcls : i = .cls
  · exact hcls ▸ decodeOp_CLS
  by_cases hret : i = .ret
  · exact hret ▸ decodeOp_RET
  obtain ⟨r, hr, hfit, hbuild⟩ := row_of_encode i
  have hne := fun w hw => encode_ne_of_wellFormed (w := w) hwf hcls hret hw
  rw [decodeOp_of_fits (hne _ (.inl rfl)) (hne _ (.inr (.inl rfl))) (hne _ (.inr (.inr rfl))) hr hfit,
    hbuild]

theorem encode_of_decodeOp {op : Word} {i : Instr} (h : decodeOp op = .ok i) : encode i = op := by
  obtain ⟨-, r, hr, hfit, rfl⟩ := row_of_decodeOp h
  exact (templateRows_faithful hr).encode_build op hfit

/-- The terms of SYS without a word of their own are not decoded: their words are CLS, RET and none. -/
theorem wellFormed_of_decodeOp {op : Word} {i : Instr} (h : decodeOp op = .ok i) :
    i.wellFormed = true := by
  by_contra hwf
  have hop := encode_of_decodeOp h
  obtain rfl | rfl | rfl := not_wellFormed_cases (Bool.eq_false_iff.mpr hwf) <;> subst hop
  · exact absurd h (by decide)
  · exact absurd h (by decide)
  · exact absurd h (by decide)

theorem decodeOp_eq_ok_iff (op : Word) (i : Instr) :
    decodeOp op = .ok i ↔ i.wellFormed = true ∧ encode i = op :=
  ⟨fun h => ⟨wellFormed_of_decodeOp h, encode_of_decodeOp h⟩, fun ⟨hwf, he⟩ => he ▸ decodeOp_encode hwf⟩

/-- The value `w` is the word of a well-formed instruction. -/
theorem hasWord_of_encode {i : Instr} {w : Nat} (hwf : i.wellFormed = true)
    (hw : encode i = BitVec.ofNat 16 w) : hasWord i w :=
  (decodeOp_eq_ok_iff _ i).mpr ⟨hwf, hw⟩

/-- Settles O2: the two bytes make the encoded word, which decodes to the instruction. -/
theorem decodeOfEncodeIsTheInstruction : Obligations.DecodeOfEncodeIsTheInstruction := by
  intro i rest hwf
  simp only [encodeBytes, List.cons_append, List.nil_append, decodeBytes, opcodeOf_bytes,
    decodeOp_encode hwf]

/-- Settles O3: the row that decodes the word is faithful to it. -/
theorem encodeOfDecodeIsTheWord : Obligations.EncodeOfDecodeIsTheWord :=
  fun _ _ h => ⟨encode_of_decodeOp h, wellFormed_of_decodeOp h⟩

/-- Settles O1: each word is the encoding of its instruction; the two refused words decode to nothing. -/
theorem decodesWordsWrittenOut : Obligations.DecodesWordsWrittenOut := by
  refine ⟨decodeOp_CLS, decodeOp_RET, decodeOp_encode (i := .sys 0x0E1) rfl,
    decodeOp_encode (i := .jp 0x234) rfl, decodeOp_encode (i := .se 10 0x7F) rfl,
    decodeOp_encode (i := .sev 1 2) rfl, decodeOp_encode (i := .addv 10 11) rfl,
    decodeOp_encode (i := .ldi 0x001) rfl, decodeOp_encode (i := .rnd 3 0xF0) rfl,
    decodeOp_encode (i := .drw 7 10 5) rfl, decodeOp_encode (i := .skp 1) rfl,
    decodeOp_encode (i := .ldmw 9) rfl, decodeOp_encode (i := .assert) rfl, ?_, ?_⟩
  · decide
  · decide

end Sys2Proof
end

section
/-! The mask-and-match decoder (30_encoding.md R89 (c)) and the words that are no instruction (R100). The mask
rows are the rows of the template table but for CLS and RET, each template read as mask, match and fields. -/
namespace Sys2Proof
open Machine

/-! ### The mask rows are template rows -/

/-- A template row as a row of the opcode table. -/
def Row.toMaskRow (r : Row) : MaskRow :=
  ⟨r.template.mask, r.template.value, fun op => r.build (getArgument r.template op)⟩

theorem covers_toMaskRow (r : Row) (op : Word) : r.toMaskRow.covers op = true ↔ r.template.fits op := by
  rw [fits_iff_mask, MaskRow.covers, beq_iff_eq, Row.toMaskRow]

theorem toMaskRow_NNN {t : Template} (mk : Addr → Instr) (h : t.carries 'n' = [false, true, true, true]) :
    Row.toMaskRow ⟨t, fun a => mk (argNNN a)⟩ = ⟨t.mask, t.value, fun op => mk (fieldNNN op)⟩ := by
  simp only [Row.toMaskRow, argNNN_eq_fieldNNN _ h]

theorem toMaskRow_X {t : Template} (mk : Reg → Instr) (h : t.carries 'x' = [false, true, false, false]) :
    Row.toMaskRow ⟨t, fun a => mk (argX a)⟩ = ⟨t.mask, t.value, fun op => mk (fieldX op)⟩ := by
  simp only [Row.toMaskRow, argX_eq_fieldX _ h]

theorem toMaskRow_XKK {t : Template} (mk : Reg → Byte → Instr)
    (hx : t.carries 'x' = [false, true, false, false]) (hk : t.carries 'k' = [false, false, true, true]) :
    Row.toMaskRow ⟨t, fun a => mk (argX a) (argKK a)⟩
      = ⟨t.mask, t.value, fun op => mk (fieldX op) (fieldKK op)⟩ := by
  simp only [Row.toMaskRow, argX_eq_fieldX _ hx, argKK_eq_fieldKK _ hk]

theorem toMaskRow_XY {t : Template} (mk : Reg → Reg → Instr)
    (hx : t.carries 'x' = [false, true, false, false]) (hy : t.carries 'y' = [false, false, true, false]) :
    Row.toMaskRow ⟨t, fun a => mk (argX a) (argY a)⟩
      = ⟨t.mask, t.value, fun op => mk (fieldX op) (fieldY op)⟩ := by
  simp only [Row.toMaskRow, argX_eq_fieldX _ hx, argY_eq_fieldY _ hy]

theorem toMaskRow_XYN {t : Template} (mk : Reg → Reg → Nibble → Instr)
    (hx : t.carries 'x' = [false, true, false, false]) (hy : t.carries 'y' = [false, false, true, false])
    (hn : t.carries 'n' = [false, false, false, true]) :
    Row.toMaskRow ⟨t, fun a => mk (argX a) (argY a) (argN a)⟩
      = ⟨t.mask, t.value, fun op => mk (fieldX op) (fieldY op) (fieldN op)⟩ := by
  simp only [Row.toMaskRow, argX_eq_fieldX _ hx, argY_eq_fieldY _ hy, argN_eq_fieldN _ hn]

theorem map_toMaskRow_rows1 : (rows1.drop 2).map Row.toMaskRow =
    maskRows.take 1 ++ maskRows1.take 4 ++ maskRows2.take 1 ++ (maskRows1.drop 4).take 2 := by
  show List.map Row.toMaskRow [_, _, _, _, _, _, _, _] = [_, _, _, _, _, _, _, _]
  simp only [List.map_cons, List.map_nil, List.cons.injEq, and_true]
  exact ⟨toMaskRow_NNN _ rfl, toMaskRow_NNN _ rfl, toMaskRow_NNN _ rfl, toMaskRow_XKK _ rfl rfl,
    toMaskRow_XKK _ rfl rfl, toMaskRow_XY _ rfl rfl, toMaskRow_XKK _ rfl rfl, toMaskRow_XKK _ rfl rfl⟩

theorem map_toMaskRow_rows2 : rows2.map Row.toMaskRow = (maskRows2.drop 1).take 9 := by
  show List.map Row.toMaskRow [_, _, _, _, _, _, _, _, _] = [_, _, _, _, _, _, _, _, _]
  simp only [List.map_cons, List.map_nil, List.cons.injEq, and_true]
  refine ⟨?_, ?_, ?_, ?_, ?_, ?_, ?_, ?_, ?_⟩ <;> exact toMaskRow_XY _ rfl rfl

theorem map_toMaskRow_rows3 : rows3.map Row.toMaskRow =
    maskRows2.drop 10 ++ maskRows1.drop 6 ++ maskRows3.take 2 := by
  show List.map Row.toMaskRow [_, _, _, _, _, _, _] = [_, _, _, _, _, _, _]
  simp only [List.map_cons, List.map_nil, List.cons.injEq, and_true]
  exact ⟨toMaskRow_XY _ rfl rfl, toMaskRow_NNN _ rfl, toMaskRow_NNN _ rfl, toMaskRow_XKK _ rfl rfl,
    toMaskRow_XYN _ rfl rfl rfl, toMaskRow_X _ rfl, toMaskRow_X _ rfl⟩

theorem map_toMaskRow_rows4 : rows4.map Row.toMaskRow = maskRows3.drop 2 := by
  show List.map Row.toMaskRow [_, _, _, _, _, _, _, _, _, _] = [_, _, _, _, _, _, _, _, _, _]
  simp only [List.map_cons, List.map_nil, List.cons.injEq, and_true]
  refine ⟨?_, ?_, ?_, ?_, ?_, ?_, ?_, ?_, ?_, rfl⟩ <;> exact toMaskRow_X _ rfl

theorem mem_maskRows_iff (m : MaskRow) :
    m ∈ maskRows ↔ ∃ r ∈ templateRows.drop 2, r.toMaskRow = m := by
  rw [← List.mem_map]
  have hmap : (templateRows.drop 2).map Row.toMaskRow =
      (rows1.drop 2).map Row.toMaskRow ++ rows2.map Row.toMaskRow ++ rows3.map Row.toMaskRow
        ++ rows4.map Row.toMaskRow := by
    simp only [← List.map_append]; rfl
  rw [hmap, map_toMaskRow_rows1, map_toMaskRow_rows2, map_toMaskRow_rows3, map_toMaskRow_rows4]
  have h1 : maskRows1 = maskRows1.take 4 ++ (maskRows1.drop 4).take 2 ++ maskRows1.drop 6 := rfl
  have h2 : maskRows2 = maskRows2.take 1 ++ (maskRows2.drop 1).take 9 ++ maskRows2.drop 10 := rfl
  have h3 : maskRows3 = maskRows3.take 2 ++ maskRows3.drop 2 := rfl
  have h : maskRows = maskRows.take 1 ++ (maskRows1 ++ maskRows2 ++ maskRows3) := rfl
  conv_lhs => rw [h, h1, h2, h3]
  simp only [List.mem_append]
  tauto

/-! ### At most one mask row covers a word -/

theorem maskRows_disjoint :
    maskRows.Pairwise fun m m' => m.value &&& m'.mask ≠ m'.value &&& m.mask := by
  decide

/-- Two covering rows agree where their masks meet. -/
theorem value_and_mask_of_covers {m m' : MaskRow} {op : Word} (h : m.covers op = true)
    (h' : m'.covers op = true) : m.value &&& m'.mask = m'.value &&& m.mask := by
  rw [MaskRow.covers, beq_iff_eq] at h h'
  rw [← h, ← h', BitVec.and_assoc, BitVec.and_assoc, BitVec.and_comm m.mask]

theorem covering_length_le_one (op : Word) : (maskRows.filter fun m => m.covers op).length ≤ 1 := by
  have hpair := maskRows_disjoint.filter fun m => m.covers op
  have hmem : ∀ m ∈ maskRows.filter fun m => m.covers op, m.covers op = true :=
    fun m hm => (List.mem_filter.mp hm).2
  match hl : maskRows.filter fun m => m.covers op with
  | [] => simp [hl]
  | [m] => simp [hl]
  | m :: m' :: l =>
    rw [hl] at hpair hmem
    exact absurd (value_and_mask_of_covers (hmem m (by simp)) (hmem m' (by simp)))
      (List.rel_of_pairwise_cons hpair (by simp))

/-- The row that covers a word is the one the mask-and-match decoder finds. -/
theorem find_of_covers {m : MaskRow} {op : Word} (hm : m ∈ maskRows) (h : m.covers op = true) :
    maskRows.find? (fun m => m.covers op) = some m := by
  have hone := covering_length_le_one op
  rw [← List.head?_filter]
  have hmem : m ∈ maskRows.filter fun m => m.covers op := List.mem_filter.mpr ⟨hm, h⟩
  match hl : maskRows.filter fun m => m.covers op with
  | [] => rw [hl] at hmem; cases hmem
  | [m'] => rw [hl] at hmem; rw [hl, List.mem_singleton.mp hmem]; rfl
  | m' :: m'' :: l => rw [hl] at hone; simp at hone

/-! ### The two decoders -/

/-- But for the three words of R89 and R101, both decoders read the one template the word fits. -/
theorem maskDecode_eq_some_iff {op : Word} (h0 : op ≠ 0x0000) (hE0 : op ≠ 0x00E0) (hEE : op ≠ 0x00EE)
    (i : Instr) : maskDecode op = some i ↔ decodeOp op = .ok i := by
  simp only [maskDecode, h0, hE0, hEE, if_false, Option.map_eq_some_iff]
  constructor
  · rintro ⟨m, hfind, rfl⟩
    obtain ⟨r, hr, rfl⟩ := (mem_maskRows_iff m).mp (List.mem_of_find?_eq_some hfind)
    have hcovers := List.find?_some (p := fun m : MaskRow => m.covers op) hfind
    exact decodeOp_of_fits h0 hE0 hEE (List.mem_of_mem_drop hr) ((covers_toMaskRow r op).mp hcovers)
  · intro h
    obtain ⟨-, r, hr, hfit, rfl⟩ := row_of_decodeOp h
    have hdrop : r ∈ templateRows.drop 2 := by
      rw [← List.take_append_drop 2 templateRows, List.mem_append] at hr
      refine hr.resolve_left fun htake => ?_
      have hunder : ∀ r ∈ templateRows.take 2, underSys r.template = true := by decide
      exact (eq_of_underSys (hunder r htake) hfit).elim hE0 hEE
    exact ⟨r.toMaskRow, find_of_covers ((mem_maskRows_iff _).mpr ⟨r, hdrop, rfl⟩)
      ((covers_toMaskRow r op).mpr hfit), rfl⟩

theorem decodeOp_toOption (op : Word) : (decodeOp op).toOption = maskDecode op := by
  by_cases h0 : op = 0x0000
  · subst h0; rfl
  by_cases hE0 : op = 0x00E0
  · subst hE0; rw [decodeOp_CLS]; rfl
  by_cases hEE : op = 0x00EE
  · subst hEE; rw [decodeOp_RET]; rfl
  ext i
  rw [maskDecode_eq_some_iff h0 hE0 hEE]
  cases decodeOp op <;> simp [Except.toOption]

/-- Settles O4: the mask rows are the template rows but for CLS and RET, and no two of them cover one
word. -/
theorem matcherIsMaskAndMatch : Obligations.MatcherIsMaskAndMatch :=
  fun op => ⟨decodeOp_toOption op, covering_length_le_one op⟩

/-! ### The undecodable words -/

theorem charFits_iff_litVal (c : Char) (n : Nibble) :
    charFits c n ↔ litVal c = none ∨ litVal c = some n.val := by
  cases h : litVal c with
  | none => simp [charFits, h]
  | some v => simp [charFits, h]

theorem lead_of_fits {r : Row} {op : Word} {n : Nibble} (hr : r ∈ templateRows) (h : r.template.fits op)
    (hn : nib0 op = n) : litVal r.template.c0 = some n.val := by
  subst hn
  have hlit := templateRows_first_literal r hr
  refine ((charFits_iff_litVal _ _).mp ((fits_iff _ _).mp h).1).resolve_left fun hnone => ?_
  rw [hnone] at hlit
  cases hlit

/-- The low byte by its nibbles. -/
theorem fieldKK_eq_iff (op : Word) (kk : Byte) :
    fieldKK op = kk ↔ (nib2 op).val = kk.toNat / 16 ∧ (nib3 op).val = kk.toNat % 16 := by
  have h3 := (nib3 op).isLt
  rw [← BitVec.toNat_inj, fieldKK_toNat]
  omega

/-- The template has the literals of the low byte `kk`. -/
abbrev Template.endsIn (t : Template) (kk : Byte) : Prop :=
  litVal t.c1 = none ∧ litVal t.c2 = some (kk.toNat / 16) ∧ litVal t.c3 = some (kk.toNat % 16)

theorem fieldKK_of_endsIn {t : Template} {op : Word} {kk : Byte} (h : t.endsIn kk) (hfit : t.fits op) :
    fieldKK op = kk := by
  obtain ⟨-, -, h2, h3⟩ := (fits_iff _ _).mp hfit
  exact (fieldKK_eq_iff op kk).mpr ⟨(charFits_of_lit h.2.1 _).mp h2, (charFits_of_lit h.2.2 _).mp h3⟩

/-! What the table has under the leading nibbles that do not stand alone. -/

theorem templateRows_nibble5_9 : ∀ r ∈ templateRows,
    litVal r.template.c0 = some 0x5 ∨ litVal r.template.c0 = some 0x9 →
      litVal r.template.c3 = some 0 := by
  decide

theorem templateRows_nibble8 : ∀ r ∈ templateRows, litVal r.template.c0 = some 0x8 →
    ∀ n ∈ ([0x8, 0x9, 0xA, 0xB, 0xC, 0xD, 0xF] : List Nibble),
      ¬(litVal r.template.c3 = none ∨ litVal r.template.c3 = some n.val) := by
  decide

theorem templateRows_nibbleE : ∀ r ∈ templateRows, litVal r.template.c0 = some 0xE →
    ∃ kk ∈ ([0x9E, 0xA1] : List Byte), r.template.endsIn kk := by
  decide

theorem templateRows_nibbleF : ∀ r ∈ templateRows, litVal r.template.c0 = some 0xF →
    (r.template.mask = 0xFFFF ∧ r.template.value = 0xF999)
      ∨ ∃ kk ∈ ([0x07, 0x0A, 0x15, 0x18, 0x1E, 0x29, 0x33, 0x55, 0x65] : List Byte),
          r.template.endsIn kk := by
  decide

theorem not_undecodable_of_fits {r : Row} {op : Word} (h0 : op ≠ 0x0000) (hr : r ∈ templateRows)
    (h : r.template.fits op) : ¬undecodable op := by
  obtain ⟨-, -, -, hfit3⟩ := (fits_iff _ _).mp h
  rintro (hz | ⟨hn, hbad⟩ | ⟨hn, hbad⟩ | ⟨hn, hbad⟩ | ⟨hn, hne, hbad⟩)
  · exact h0 hz
  · have hc3 := templateRows_nibble5_9 r hr (hn.imp (lead_of_fits hr h) (lead_of_fits hr h))
    exact hbad (Fin.ext ((charFits_of_lit hc3 _).mp hfit3))
  · exact templateRows_nibble8 r hr (lead_of_fits hr h hn) _ hbad ((charFits_iff_litVal _ _).mp hfit3)
  · obtain ⟨kk, hkk, hends⟩ := templateRows_nibbleE r hr (lead_of_fits hr h hn)
    exact hbad (fieldKK_of_endsIn hends h ▸ hkk)
  · rcases templateRows_nibbleF r hr (lead_of_fits hr h hn) with ⟨hmask, hval⟩ | ⟨kk, hkk, hends⟩
    · rw [fits_iff_mask, hmask, hval, show (0xFFFF : Word) = BitVec.allOnes 16 from rfl,
        BitVec.and_allOnes] at h
      exact hne h
    · exact hbad (fieldKK_of_endsIn hends h ▸ hkk)

/-- The table has a row for every leading nibble that stands alone, for 5xy0 and 9xy0, and for every
nibble-8 word that is not listed. -/
theorem templateRows_cover_ends (n0 n3 : Nibble)
    (h : (n0 = 0x5 ∨ n0 = 0x9) → n3 = 0)
    (h8 : n0 = 0x8 → n3 ∉ ([0x8, 0x9, 0xA, 0xB, 0xC, 0xD, 0xF] : List Nibble))
    (hEF : n0 ≠ 0xE ∧ n0 ≠ 0xF) :
    ∃ r ∈ templateRows, litVal r.template.c0 = some n0.val ∧ litVal r.template.c1 = none
      ∧ litVal r.template.c2 = none
      ∧ (litVal r.template.c3 = none ∨ litVal r.template.c3 = some n3.val) := by
  revert n0 n3
  decide

theorem templateRows_cover_E : ∀ kk ∈ ([0x9E, 0xA1] : List Byte),
    ∃ r ∈ templateRows, litVal r.template.c0 = some 0xE ∧ r.template.endsIn kk := by
  decide

theorem templateRows_cover_F : ∀ kk ∈ ([0x07, 0x0A, 0x15, 0x18, 0x1E, 0x29, 0x33, 0x55, 0x65] : List Byte),
    ∃ r ∈ templateRows, litVal r.template.c0 = some 0xF ∧ r.template.endsIn kk := by
  decide

theorem fits_of_endsIn {t : Template} {op : Word} (h0 : litVal t.c0 = some (nib0 op).val)
    (h : t.endsIn (fieldKK op)) : t.fits op := by
  obtain ⟨h1, h2, h3⟩ := h
  obtain ⟨e2, e3⟩ := (fieldKK_eq_iff op _).mp rfl
  exact (fits_iff t op).mpr ⟨(charFits_of_lit h0 _).mpr rfl, charFits_of_letter h1 _,
    (charFits_of_lit h2 _).mpr e2, (charFits_of_lit h3 _).mpr e3⟩

theorem fits_of_not_undecodable {op : Word} (h : ¬undecodable op) :
    ∃ r ∈ templateRows, r.template.fits op := by
  simp only [undecodable, not_or, not_and, not_not] at h
  obtain ⟨-, h59, h8, hE, hF⟩ := h
  by_cases hnE : nib0 op = 0xE
  · obtain ⟨r, hr, hlead, hends⟩ := templateRows_cover_E _ (hE hnE)
    exact ⟨r, hr, fits_of_endsIn (hnE ▸ hlead) hends⟩
  by_cases hnF : nib0 op = 0xF
  · by_cases hassert : op = 0xF999
    · subst hassert
      obtain ⟨r, hr, hfit, -⟩ := row_of_encode .assert
      exact ⟨r, hr, hfit⟩
    · obtain ⟨r, hr, hlead, hends⟩ := templateRows_cover_F _ (hF hnF hassert)
      exact ⟨r, hr, fits_of_endsIn (hnF ▸ hlead) hends⟩
  · obtain ⟨r, hr, hlead, h1, h2, h3⟩ := templateRows_cover_ends (nib0 op) (nib3 op) h59 h8 ⟨hnE, hnF⟩
    exact ⟨r, hr, (fits_iff _ _).mpr ⟨(charFits_of_lit hlead _).mpr rfl, charFits_of_letter h1 _,
      charFits_of_letter h2 _, (charFits_iff_litVal _ _).mpr h3⟩⟩

/-- Settles O6: a word is no instruction when it is blank or fits no row, and the rows leave out what R100
lists. -/
theorem undecodableWordsAreExactlyThose : Obligations.UndecodableWordsAreExactlyThose := by
  intro op
  constructor
  · rintro ⟨e, he⟩
    by_contra hdec
    obtain ⟨r, hr, hfit⟩ := fits_of_not_undecodable hdec
    obtain ⟨i, hi⟩ := decodeOp_isOk_of_fits (fun h0 => hdec (.inl h0)) hr hfit
    rw [he] at hi
    cases hi
  · intro hund
    cases hdec : decodeOp op with
    | error e => exact ⟨e, rfl⟩
    | ok i =>
      obtain ⟨h0, r, hr, hfit, -⟩ := row_of_decodeOp hdec
      exact absurd hund (not_undecodable_of_fits h0 hr hfit)

end Sys2Proof
end

section
/-! What an instruction changes (10_state.md sections 2 to 8). An instruction raises a fatal condition of its
own (`raisedBy`), or it goes on and writes only the pieces of state the spec names for it (`touches`):
`exec_cases` says so once, and the frame of every instruction follows. -/
namespace Sys2Proof.Machine

/-! ### The pieces of state an instruction names -/

/-- The pieces of state that instructions write; the other fields of `State` are the parameters, the level
inputs and the host's schedule, which none writes. -/
inductive Piece where
  | v | i | pc | dt | st | stack | sp | mem | fb | run | exitCode | waitReg | samples | pulses
deriving DecidableEq

/-- What an instruction writes when it goes on (10_state.md sections 2 to 8). -/
def touches : Instr → List Piece
  | .cls => [.fb, .pulses]
  | .ret => [.sp, .pc]
  | .sys _ => []
  | .jp _ => [.pc, .run]
  | .call _ => [.stack, .sp, .pc]
  | .se _ _ | .sne _ _ | .sev _ _ | .snev _ _ | .jpv0 _ => [.pc]
  | .skp _ | .sknp _ => [.pc, .pulses]
  | .ld _ _ | .add _ _ | .ldv _ _ | .or _ _ | .and _ _ | .xor _ _ | .addv _ _ | .sub _ _ | .shr _ _
  | .subn _ _ | .shl _ _ | .lddt _ => [.v]
  | .rnd _ _ => [.v, .samples]
  | .ldi _ | .addi _ | .ldf _ => [.i]
  | .drw _ _ _ => [.v, .fb, .pulses]
  | .ldkp _ => [.waitReg, .run]
  | .stdt _ => [.dt]
  | .stst _ => [.st]
  | .ldbc _ => [.mem]
  | .ldmw _ => [.mem, .i]
  | .ldmr _ => [.v, .i]
  | .assert => [.exitCode, .run]

/-- The state `t` differs from `s` in the listed pieces only. -/
def changesOnly (ps : List Piece) (s t : State) : Prop :=
  t = { s with
    v := if .v ∈ ps then t.v else s.v
    i := if .i ∈ ps then t.i else s.i
    pc := if .pc ∈ ps then t.pc else s.pc
    dt := if .dt ∈ ps then t.dt else s.dt
    st := if .st ∈ ps then t.st else s.st
    stack := if .stack ∈ ps then t.stack else s.stack
    sp := if .sp ∈ ps then t.sp else s.sp
    mem := if .mem ∈ ps then t.mem else s.mem
    fb := if .fb ∈ ps then t.fb else s.fb
    run := if .run ∈ ps then t.run else s.run
    exitCode := if .exitCode ∈ ps then t.exitCode else s.exitCode
    waitReg := if .waitReg ∈ ps then t.waitReg else s.waitReg
    rndIn := if .samples ∈ ps then t.rndIn else s.rndIn
    freeCtr := if .samples ∈ ps then t.freeCtr else s.freeCtr
    pulses := if .pulses ∈ ps then t.pulses else s.pulses }

/-! What is not listed is as before; the parameters, the level inputs, the host's schedule and `FAULT` are
never listed. -/

section Frame
variable {ps : List Piece} {s t : State}

theorem changesOnly.v (h : changesOnly ps s t) (hp : .v ∉ ps) : t.v = s.v :=
  (congrArg State.v h).trans (if_neg hp)

theorem changesOnly.i (h : changesOnly ps s t) (hp : .i ∉ ps) : t.i = s.i :=
  (congrArg State.i h).trans (if_neg hp)

theorem changesOnly.dt (h : changesOnly ps s t) (hp : .dt ∉ ps) : t.dt = s.dt :=
  (congrArg State.dt h).trans (if_neg hp)

theorem changesOnly.st (h : changesOnly ps s t) (hp : .st ∉ ps) : t.st = s.st :=
  (congrArg State.st h).trans (if_neg hp)

theorem changesOnly.stack (h : changesOnly ps s t) (hp : .stack ∉ ps) : t.stack = s.stack :=
  (congrArg State.stack h).trans (if_neg hp)

theorem changesOnly.sp (h : changesOnly ps s t) (hp : .sp ∉ ps) : t.sp = s.sp :=
  (congrArg State.sp h).trans (if_neg hp)

theorem changesOnly.mem (h : changesOnly ps s t) (hp : .mem ∉ ps) : t.mem = s.mem :=
  (congrArg State.mem h).trans (if_neg hp)

theorem changesOnly.fb (h : changesOnly ps s t) (hp : .fb ∉ ps) : t.fb = s.fb :=
  (congrArg State.fb h).trans (if_neg hp)

theorem changesOnly.run (h : changesOnly ps s t) (hp : .run ∉ ps) : t.run = s.run :=
  (congrArg State.run h).trans (if_neg hp)

theorem changesOnly.exitCode (h : changesOnly ps s t) (hp : .exitCode ∉ ps) : t.exitCode = s.exitCode :=
  (congrArg State.exitCode h).trans (if_neg hp)

theorem changesOnly.waitReg (h : changesOnly ps s t) (hp : .waitReg ∉ ps) : t.waitReg = s.waitReg :=
  (congrArg State.waitReg h).trans (if_neg hp)

theorem changesOnly.samples (h : changesOnly ps s t) (hp : .samples ∉ ps) :
    t.rndIn = s.rndIn ∧ t.freeCtr = s.freeCtr :=
  ⟨(congrArg State.rndIn h).trans (if_neg hp), (congrArg State.freeCtr h).trans (if_neg hp)⟩

theorem changesOnly.fault (h : changesOnly ps s t) : t.fault = s.fault :=
  (congrArg State.fault h :)

theorem changesOnly.stackDepth (h : changesOnly ps s t) : t.stackDepth = s.stackDepth :=
  (congrArg State.stackDepth h :)

theorem changesOnly.contIn (h : changesOnly ps s t) : t.contIn = s.contIn :=
  (congrArg State.contIn h :)

/-- The fields that no instruction writes. -/
theorem changesOnly.inputs (h : changesOnly ps s t) :
    t.stackDepth = s.stackDepth ∧ t.font = s.font ∧ t.contIn = s.contIn ∧ t.extTimer = s.extTimer
      ∧ t.tickDue = s.tickDue ∧ t.keyDown = s.keyDown ∧ t.host = s.host := by
  rw [h]
  exact ⟨rfl, rfl, rfl, rfl, rfl, rfl, rfl⟩

end Frame

/-- The condition an instruction may raise in a state (60_exceptions.md R212, R213, R215). -/
def raisedBy (i : Instr) (s : State) (f : Fault) : Prop :=
  match i with
  | .ret => s.sp = 0 ∧ f = .stackUnderflow
  | .call _ => s.stackFull = true ∧ f = .stackOverflow
  | .drw _ _ _ | .ldbc _ | .ldmw _ | .ldmr _ => f = .outOfBounds (max s.i.toNat 0x1000)
  | _ => False

/-! ### What the operations that may raise answer -/

theorem pop_error_inv {s : State} {f : Fault} (h : pop s = .error f) : s.sp = 0 ∧ f = .stackUnderflow := by
  rcases pop_cases s with ⟨hsp, e⟩ | ⟨_, e⟩ <;> rw [e] at h <;> cases h
  exact ⟨hsp, rfl⟩

theorem push_error_inv {w : Word} {s : State} {f : Fault} (h : push w s = .error f) :
    s.stackFull = true ∧ f = .stackOverflow := by
  rcases push_cases w s with ⟨hfull, e⟩ | ⟨_, e⟩ <;> rw [e] at h <;> cases h
  exact ⟨hfull, rfl⟩

theorem memRead_error_inv {m : Memory} {addr n : Nat} {f : Fault} (h : memRead m addr n = .error f) :
    f = .outOfBounds (max addr 0x1000) := by
  rcases memRead_cases m addr n with ⟨_, e⟩ | ⟨_, e⟩ <;> rw [e] at h <;> cases h
  rfl

theorem memWrite_error_inv {m : Memory} {addr : Nat} {bs : List Byte} {f : Fault}
    (h : memWrite m addr bs = .error f) : f = .outOfBounds (max addr 0x1000) := by
  rcases memWrite_cases m addr bs with ⟨_, e⟩ | ⟨_, e⟩ <;> rw [e] at h <;> cases h
  rfl

/-- What raising keeps and the rest keeps, an operation that may raise keeps. -/
theorem orRaise_keeps {α : Type} {op : Word} {s t : State} {r : Except Fault α} {rest : α → State}
    {P : State → Prop} (h : orRaise op s r rest = .next t) (hraise : ∀ f, P (raise f op s))
    (hok : ∀ v, r = .ok v → P (rest v)) : P t := by
  rcases orRaise_cases op s r rest with ⟨v, hv, e⟩ | ⟨f, _, e⟩ <;> rw [e] at h <;> cases h
  · exact hok v hv
  · exact hraise f

theorem sampleRnd_changesOnly (s : State) : changesOnly [.samples] s (sampleRnd s).2 := by
  rcases sampleRnd_cases s with ⟨b, rest, _, e⟩ | ⟨_, e⟩ <;> rw [e] <;> rfl

/-! ### Raising or going on -/

/-- An instruction that began in `s` left `t`: it raised its condition, or it wrote what it names. -/
def raisesOrChanges (i : Instr) (s t : State) : Prop :=
  (∃ f, raisedBy i s f ∧ t = raise f (encode i) s) ∨ changesOnly (touches i) s t

theorem raisesOrChanges_of_next {i : Instr} {s t u : State}
    (h : (Host.Outcome.next u : Outcome) = .next t) (hu : changesOnly (touches i) s u) :
    raisesOrChanges i s t := by
  cases h
  exact .inr hu

theorem raisesOrChanges_of_orRaise {α : Type} {i : Instr} {s t : State} {r : Except Fault α}
    {rest : α → State} (h : orRaise (encode i) s r rest = .next t)
    (herr : ∀ f, r = .error f → raisedBy i s f)
    (hok : ∀ v, r = .ok v → changesOnly (touches i) s (rest v)) : raisesOrChanges i s t := by
  rcases orRaise_cases (encode i) s r rest with ⟨v, hv, e⟩ | ⟨f, hf, e⟩ <;> rw [e] at h <;> cases h
  · exact .inr (hok v hv)
  · exact .inl ⟨f, herr f hf, rfl⟩

/-- What an instruction can do, said once. -/
theorem exec_cases {i : Instr} {s t : State} (h : exec i s = .next t) : raisesOrChanges i s t := by
  cases i with
  | ret =>
    refine raisesOrChanges_of_orRaise h (fun f hf => pop_error_inv hf) fun r hr => ?_
    rw [(pop_ok_inv hr).2]
    rfl
  | call nnn =>
    refine raisesOrChanges_of_orRaise h (fun f hf => push_error_inv hf) fun u hu => ?_
    rw [push_ok_inv hu]
    rfl
  | drw x y n => exact raisesOrChanges_of_orRaise h (fun f hf => memRead_error_inv hf) fun _ _ => rfl
  | ldbc x => exact raisesOrChanges_of_orRaise h (fun f hf => memWrite_error_inv hf) fun _ _ => rfl
  | ldmw x => exact raisesOrChanges_of_orRaise h (fun f hf => memWrite_error_inv hf) fun _ _ => rfl
  | ldmr x => exact raisesOrChanges_of_orRaise h (fun f hf => memRead_error_inv hf) fun _ _ => rfl
  | rnd x kk =>
    refine raisesOrChanges_of_next h ?_
    have hs := sampleRnd_changesOnly s
    rw [hs]
    rfl
  | _ => exact raisesOrChanges_of_next h rfl

end Sys2Proof.Machine
end

section
/-! The frame of every instruction (10_state.md sections 2 to 8) and its faults (60_exceptions.md R217), from
`exec_cases`. -/
namespace Sys2Proof.Machine

/-! ### The frame -/

/-- Whatever an instruction does, `RUN` and `FAULT` apart it changes only the pieces it names. -/
theorem exec_frame {i : Instr} {s t : State} (h : exec i s = .next t) :
    ∃ r, changesOnly (touches i) s { t with run := r, fault := s.fault } := by
  rcases exec_cases h with ⟨f, -, rfl⟩ | hc
  · refine ⟨s.run, ?_⟩
    simp [changesOnly, raise]
  · refine ⟨t.run, ?_⟩
    rw [show { t with run := t.run, fault := s.fault } = t by rw [hc]]
    exact hc

/-! Which instructions name a piece. -/

theorem mem_mem_touches {i : Instr} :
    .mem ∈ touches i ↔ (∃ x, i = .ldbc x) ∨ ∃ x, i = .ldmw x := by
  cases i <;> simp [touches]

theorem fb_mem_touches {i : Instr} : .fb ∈ touches i ↔ i = .cls ∨ ∃ x y n, i = .drw x y n := by
  cases i <;> simp [touches]

theorem i_mem_touches {i : Instr} : .i ∈ touches i ↔
    (∃ nnn, i = .ldi nnn) ∨ (∃ x, i = .addi x) ∨ (∃ x, i = .ldf x) ∨ (∃ x, i = .ldmw x)
      ∨ ∃ x, i = .ldmr x := by
  cases i <;> simp [touches]

theorem dt_mem_touches {i : Instr} : .dt ∈ touches i ↔ ∃ x, i = .stdt x := by
  cases i <;> simp [touches]

theorem st_mem_touches {i : Instr} : .st ∈ touches i ↔ ∃ x, i = .stst x := by
  cases i <;> simp [touches]

theorem stack_mem_touches {i : Instr} : .stack ∈ touches i ↔ ∃ nnn, i = .call nnn := by
  cases i <;> simp [touches]

theorem sp_mem_touches {i : Instr} : .sp ∈ touches i ↔ (∃ nnn, i = .call nnn) ∨ i = .ret := by
  cases i <;> simp [touches]

theorem exitCode_mem_touches {i : Instr} : .exitCode ∈ touches i ↔ i = .assert := by
  cases i <;> simp [touches]

theorem waitReg_mem_touches {i : Instr} : .waitReg ∈ touches i ↔ ∃ x, i = .ldkp x := by
  cases i <;> simp [touches]

theorem samples_mem_touches {i : Instr} : .samples ∈ touches i ↔ ∃ x kk, i = .rnd x kk := by
  cases i <;> simp [touches]

theorem run_mem_touches {i : Instr} :
    .run ∈ touches i ↔ (∃ nnn, i = .jp nnn) ∨ (∃ x, i = .ldkp x) ∨ i = .assert := by
  cases i <;> simp [touches]

/-- Settles O58: each piece outside the list that `exec_frame` allows is as before. -/
theorem otherStateIsWrittenOnlyWhereNamed : Obligations.OtherStateIsWrittenOnlyWhereNamed := by
  intro i s t h
  obtain ⟨r, hf⟩ := exec_frame h
  refine ⟨fun hldbc hldmw a => ?_, fun hcls hdrw => ?_, fun hldi haddi hldf hldmw hldmr => ?_,
    fun hstdt => hf.dt (mt dt_mem_touches.mp (not_exists.mpr hstdt)),
    fun hstst => hf.st (mt st_mem_touches.mp (not_exists.mpr hstst)),
    fun hcall => ⟨hf.stack (mt stack_mem_touches.mp (not_exists.mpr hcall)), fun hret =>
      hf.sp (mt sp_mem_touches.mp (not_or.mpr ⟨not_exists.mpr hcall, hret⟩))⟩,
    fun hassert => hf.exitCode (mt exitCode_mem_touches.mp hassert),
    fun hldkp => hf.waitReg (mt waitReg_mem_touches.mp (not_exists.mpr hldkp)),
    fun hrnd => hf.samples (mt samples_mem_touches.mp fun ⟨x, kk, hi⟩ => hrnd x kk hi), hf.inputs⟩
  · have hmem : t.mem = s.mem := hf.mem fun hp =>
      (mem_mem_touches.mp hp).elim (fun ⟨x, hi⟩ => hldbc x hi) fun ⟨x, hi⟩ => hldmw x hi
    rw [hmem]
  · exact hf.fb fun hp => (fb_mem_touches.mp hp).elim hcls fun ⟨x, y, n, hi⟩ => hdrw x y n hi
  · refine hf.i fun hp => ?_
    obtain ⟨x, hi⟩ | ⟨x, hi⟩ | ⟨x, hi⟩ | ⟨x, hi⟩ | ⟨x, hi⟩ := i_mem_touches.mp hp
    exacts [hldi x hi, haddi x hi, hldf x hi, hldmw x hi, hldmr x hi]

/-! ### The registers -/

theorem keepsOtherRegs_of_v_eq {s t : State} (h : t.v = s.v) (l : List Reg) : keepsOtherRegs s t l :=
  fun r _ => congrArg (fun v : Vector Byte 16 => v[r]) h

theorem exec_v {i : Instr} {s t : State} (h : exec i s = .next t) (hv : .v ∉ touches i) : t.v = s.v :=
  let ⟨_, hf⟩ := exec_frame h
  hf.v hv

theorem resultThenFlag_keepsOthers (x : Reg) (b f : Byte) (s : State) :
    keepsOtherRegs s (resultThenFlag x b f s) [x, vf] := by
  intro r hr
  simp only [List.mem_cons, List.not_mem_nil, or_false, not_or] at hr
  rw [resultThenFlag_reg, if_neg hr.2, if_neg hr.1]

theorem flagThenResult_keepsOthers (x : Reg) (b f : Byte) (s : State) :
    keepsOtherRegs s (flagThenResult x b f s) [x, vf] := by
  intro r hr
  simp only [List.mem_cons, List.not_mem_nil, or_false, not_or] at hr
  rw [flagThenResult_reg, if_neg hr.1, if_neg hr.2]

/-- The registers of a state whose registers were those of `s` before one of them was written. -/
theorem setReg_keepsOthers_of_v {s u : State} (h : u.v = s.v) (x : Reg) (b : Byte) :
    keepsOtherRegs s (u.setReg x b) [x] := fun r hr =>
  (setReg_keepsOthers u x b r hr).trans (keepsOtherRegs_of_v_eq h [] r (by simp))

theorem sampleRnd_v (s : State) : (sampleRnd s).2.v = s.v :=
  (sampleRnd_changesOnly s).v (by decide)

/-- The bytes loaded reach the registers up to `x` (43_index_memory.md R175). -/
theorem reg_loadRegs_of_gt {x k : Reg} {s : State} {bs : List Byte} (hlen : bs.length = x.val + 1)
    (h : x < k) : (s.loadRegs bs).reg k = s.reg k := by
  have hk : bs.length ≤ k.val := by rw [hlen]; exact h
  rw [State.reg_loadRegs, List.getD_eq_default _ _ hk]

theorem memRead_ok_inv {m : Memory} {addr n : Nat} {bs : List Byte} (h : memRead m addr n = .ok bs) :
    bs = readBytes m addr n := by
  rcases memRead_cases m addr n with ⟨_, e⟩ | ⟨_, e⟩ <;> rw [e] at h <;> cases h
  rfl

/-- An operation that may raise keeps the registers that its rest keeps. -/
theorem keepsOtherRegs_of_orRaise {α : Type} {op : Word} {s t : State} {r : Except Fault α}
    {rest : α → State} {l : List Reg} (h : orRaise op s r rest = .next t)
    (hok : ∀ v, r = .ok v → keepsOtherRegs s (rest v) l) : keepsOtherRegs s t l :=
  orRaise_keeps (P := fun t => keepsOtherRegs s t l) h (fun _ => keepsOtherRegs_of_v_eq rfl l) hok

/-- Settles O57: an instruction that names no register keeps them all; the others write theirs through
`setReg`, result and flag, or `loadRegs`. -/
theorem instructionsWriteOnlyTheirRegisters : Obligations.InstructionsWriteOnlyTheirRegisters := by
  intro i s t h
  cases i with
  | ld x _ | add x _ | ldv x _ | or x _ | and x _ | xor x _ | lddt x =>
    cases h
    exact setReg_keepsOthers s x _
  | addv x _ | sub x _ | subn x _ =>
    cases h
    exact resultThenFlag_keepsOthers x _ _ s
  | shr x _ | shl x _ =>
    cases h
    exact flagThenResult_keepsOthers x _ _ s
  | rnd x kk =>
    cases h
    exact setReg_keepsOthers_of_v (sampleRnd_v s) x _
  | drw x y n => exact keepsOtherRegs_of_orRaise h fun _ _ => setReg_keepsOthers_of_v rfl vf _
  | ldmr x =>
    refine keepsOtherRegs_of_orRaise h fun bs hbs r hr => ?_
    have hlen : bs.length = x.val + 1 := by rw [memRead_ok_inv hbs, readBytes_length]
    refine reg_loadRegs_of_gt hlen (not_le.mp fun hle => hr ?_)
    simp [regsWritten, hle]
  | _ => exact keepsOtherRegs_of_v_eq (exec_v h (by simp [touches])) _

/-! ### The faults -/

/-- An instruction of a run that goes on does not end in Halted-Fault. -/
theorem run_ne_haltedFault_of_changesOnly {i : Instr} {s t : State} (h : exec i s = .next t)
    (hrun : s.run = .running) (hc : changesOnly (touches i) s t) : t.run ≠ .haltedFault := by
  by_cases hp : .run ∈ touches i
  · obtain ⟨nnn, rfl⟩ | ⟨x, rfl⟩ | rfl := run_mem_touches.mp hp
    · cases h
      rw [State.setRun_run]
      split
      · decide
      · simp [hrun]
    · rw [run_of_exec_ldkp h]; decide
    · rw [run_of_exec_assert h]; decide
  · rw [hc.run hp, hrun]; decide

/-- Settles O60: `exec_cases` leaves Halted-Fault to the conditions of `raisedBy`. -/
theorem faultsArePreciseAndOnlyTheirs : Obligations.FaultsArePreciseAndOnlyTheirs := by
  intro i s t h hrun hfault
  rcases exec_cases h with ⟨f, hf, rfl⟩ | hc
  · cases i with
    | ret =>
      obtain ⟨hsp, rfl⟩ := hf
      exact .inl ⟨rfl, hsp, rfl⟩
    | call nnn =>
      obtain ⟨hfull, rfl⟩ := hf
      exact .inr (.inl ⟨⟨nnn, rfl⟩, hfull, rfl⟩)
    | drw x y n =>
      obtain rfl := hf
      exact .inr (.inr ⟨.inr ⟨x, y, n, rfl⟩, rfl⟩)
    | ldbc x =>
      obtain rfl := hf
      exact .inr (.inr ⟨.inl ⟨x, .inl rfl⟩, rfl⟩)
    | ldmw x =>
      obtain rfl := hf
      exact .inr (.inr ⟨.inl ⟨x, .inr (.inl rfl)⟩, rfl⟩)
    | ldmr x =>
      obtain rfl := hf
      exact .inr (.inr ⟨.inl ⟨x, .inr (.inr rfl)⟩, rfl⟩)
    | _ => exact hf.elim
  · exact absurd hfault (run_ne_haltedFault_of_changesOnly h hrun hc)

end Sys2Proof.Machine
end

section
/-! The instruction cycle (35_instruction_cycle.md R113 to R121): the step that runs the word at `PC`, the
undecodable word, and the poll. -/
namespace Sys2Proof.Machine

/-! ### A step as the execution of the word at `PC` -/

theorem executeWord_of_ok {op : Word} {i : Instr} (s : State) (h : decodeOp op = .ok i) :
    executeWord op s = thenPoll (exec i s) := by
  simp only [executeWord, h]

theorem fetchAndExecute_of_ok {s : State} {op : Word} (h : fetch s = .ok op) :
    fetchAndExecute s = executeWord op (advance (notify s)) := by
  simp only [fetchAndExecute, h]

/-- A step of a run executes the two bytes at `PC` in the state after steps 1, 3 and 4. -/
theorem step_eq_executeWord {s : State} {rest : List HostEvent} (hrun : s.run = .running)
    (hstep : leavesStep s rest) (hpc : s.pc.toNat + 1 < 4096) :
    step s = executeWord (opcodeOf (Memory.get s.mem s.pc.toNat) (Memory.get s.mem (s.pc.toNat + 1)))
      (readyToExecute s rest) := by
  have hpc' : (timerService (stepStart s rest)).pc = s.pc := timerService_pc _
  have hmem : (timerService (stepStart s rest)).mem = s.mem := timerService_mem _
  have hfetch := fetch_of_lt (s := timerService (stepStart s rest)) (by rw [hpc']; omega)
  rw [hpc', hmem] at hfetch
  rw [step_of_running hrun hstep, fetchAndExecute_of_ok hfetch]
  rfl

@[simp] theorem readyToExecute_pc (s : State) (rest : List HostEvent) :
    (readyToExecute s rest).pc = s.pc + 2 :=
  congrArg (· + 2) (timerService_pc (stepStart s rest))

@[simp] theorem readyToExecute_instrAddr (s : State) (rest : List HostEvent) :
    (readyToExecute s rest).instrAddr = s.pc := by
  rw [State.instrAddr, readyToExecute_pc, BitVec.add_sub_cancel]

theorem dbgAddr_mem_readyToExecute (s : State) (rest : List HostEvent) :
    Pulse.dbgAddr s.pc ∈ (readyToExecute s rest).pulses := by
  simp [readyToExecute, advance, notify]

theorem readyToExecute_of_no_tick {s : State} (rest : List HostEvent)
    (h : s.extTimer = true ∨ s.tickDue = false) : readyToExecute s rest = { s with
      pc := s.pc + 2, host := rest, pulses := [.dbgAddr s.pc] } := by
  rcases timerService_cases (stepStart s rest) with ⟨hext, hdue, _⟩ | ⟨_, e⟩
  · change s.extTimer = false at hext
    change s.tickDue = true at hdue
    simp [hext, hdue] at h
  · rw [readyToExecute, e]
    rfl

theorem readyToExecute_of_tick {s : State} (rest : List HostEvent) (hext : s.extTimer = false)
    (hdue : s.tickDue = true) : readyToExecute s rest = { s with
      pc := s.pc + 2, host := rest, dt := (tick s).dt, st := (tick s).st,
      pulses := beeps s ++ [.tickAck, .dbgAddr s.pc] } := by
  rcases timerService_cases (stepStart s rest) with ⟨_, _, e⟩ | ⟨hno, _⟩
  · have hpulses : ([] ++ beeps s) ++ [.tickAck] ++ [.dbgAddr s.pc] =
        beeps s ++ [.tickAck, .dbgAddr s.pc] := by simp
    rw [readyToExecute, e, ← hpulses]
    rfl
  · exact absurd ⟨hext, hdue⟩ hno

/-- Settles O13: the step executes the word that decodes, and the state it does so in is known. -/
theorem stepRunsTheDecodedInstruction : Obligations.StepRunsTheDecodedInstruction := by
  intro s t rest i hrun hstep hpc hdec hexec
  refine ⟨?_, readyToExecute_pc s rest, readyToExecute_of_no_tick rest, readyToExecute_of_tick rest⟩
  rw [step_eq_executeWord hrun hstep hpc, executeWord_of_ok _ hdec, hexec, thenPoll_next]

/-- Settles O15: an undecodable word decodes to nothing, so it raises DecodeFailure. -/
theorem undecodableWordTakesDecodeFailure : Obligations.UndecodableWordTakesDecodeFailure := by
  intro s rest op hrun hstep hpc hop hund
  obtain ⟨e, he⟩ := (undecodableWordsAreExactlyThose op).mpr hund
  refine ⟨?_, readyToExecute_pc s rest, dbgAddr_mem_readyToExecute s rest⟩
  rw [step_eq_executeWord hrun hstep hpc, ← hop, executeWord_of_error _ he, raise_eq, faultAddr,
    readyToExecute_instrAddr]
  rfl

/-! ### The poll -/

theorem poll_of_running {s : State} (hr : s.run = .running) (hc : s.contIn = false) :
    poll s = s.setRun .haltedExternal := by
  simp [poll, hr, hc]

theorem poll_of_idle {s : State} (h : s.run.idle = true) : poll s = s := by
  rcases poll_cases s with e | ⟨_, hr, _⟩ | ⟨_, hr, _⟩
  · exact e
  · rw [hr] at h; cases h
  · rw [hr] at h; cases h

/-- Settles O16: the poll by what `RUN` is, and after an LDKP, which leaves WaitKey. -/
theorem continuePollEndsTheRun : Obligations.ContinuePollEndsTheRun := by
  intro s
  refine ⟨poll_of_running, poll_of_continue s, poll_of_idle, fun hr hc => ?_, fun x hc => ?_⟩
  · rw [poll_of_waitKey s hr hc]
    exact ⟨cancelWait_keepsOthers s, cancelWait_eq s⟩
  · exact ⟨cancelWait { s with waitReg := x, run := .waitKey },
      congrArg Host.Outcome.next (poll_of_waitKey { s with waitReg := x, run := .waitKey } rfl hc),
      cancelWait_keepsOthers { s with waitReg := x, run := .waitKey }, rfl⟩

end Sys2Proof.Machine
end

section
/-! Which transitions of `RUN` a step can make (35_instruction_cycle.md R111), by who has the step: the engine
in a run, or the host's next event. -/
namespace Sys2Proof.Machine

/-! ### Who has the step -/

/-- A step answers what its event answers, or it is the engine's. -/
theorem step_cases (s : State) :
    (∃ rest, leavesStep s rest) ∨ ∃ e rest, e ≠ .pass ∧ s.host = e :: rest := by
  cases h : s.host with
  | nil => exact .inl ⟨[], .inl ⟨h, rfl⟩⟩
  | cons e rest =>
    by_cases he : e = .pass
    · exact .inl ⟨rest, .inr (he ▸ h)⟩
    · exact .inr ⟨e, rest, he, rfl⟩

/-! ### `RUN` after an execution -/

theorem faultKind_ne_none (f : Fault) : faultKind f ≠ .none := by
  cases f <;> simp [faultKind]

/-- An instruction of a run raises, goes on in the run, or is one of the three that leave it. -/
theorem exec_run_cases {i : Instr} {s t : State} (h : exec i s = .next t) (hrun : s.run = .running) :
    (t.run = .haltedFault ∧ t.fault.kind ≠ .none) ∨ t.run = .running
      ∨ (t.run = .waitKey ∧ ∃ x, i = .ldkp x)
      ∨ (t.run = .haltedNormal ∧ i = .assert)
      ∨ (t.run = .haltedLoop ∧ ∃ nnn, i = .jp nnn ∧ addrWord nnn = s.instrAddr) := by
  rcases exec_cases h with ⟨f, -, rfl⟩ | hc
  · exact .inl ⟨rfl, faultKind_ne_none f⟩
  · by_cases hp : .run ∈ touches i
    · obtain ⟨nnn, rfl⟩ | ⟨x, rfl⟩ | rfl := run_mem_touches.mp hp
      · cases h
        rw [State.setRun_run]
        split
        · next hself => exact .inr (.inr (.inr (.inr ⟨rfl, nnn, rfl, hself⟩)))
        · exact .inr (.inl hrun)
      · exact .inr (.inr (.inl ⟨run_of_exec_ldkp h, x, rfl⟩))
      · exact .inr (.inr (.inr (.inl ⟨run_of_exec_assert h, rfl⟩)))
    · exact .inr (.inl ((hc.run hp).trans hrun))

theorem exec_contIn {i : Instr} {s t : State} (h : exec i s = .next t) : t.contIn = s.contIn := by
  obtain ⟨r, hf⟩ := exec_frame h
  exact hf.contIn

/-- The poll leaves `RUN` alone, or `CONTINUE` is 0 and it leaves a run Halted-External. -/
theorem poll_run_cases (s : State) : poll s = s
    ∨ (s.contIn = false ∧ (poll s).run = .haltedExternal ∧ (poll s).contIn = false
        ∧ (s.run = .running ∨ s.run = .waitKey)) := by
  rcases poll_cases s with e | ⟨hc, hr, e⟩ | ⟨hc, hr, e⟩
  · exact .inl e
  · exact .inr ⟨hc, by rw [e]; exact ⟨rfl, hc, .inl hr⟩⟩
  · exact .inr ⟨hc, by rw [e]; exact ⟨rfl, hc, .inr hr⟩⟩

/-! ### The engine's step -/

@[simp] theorem readyToExecute_run (s : State) (rest : List HostEvent) :
    (readyToExecute s rest).run = s.run :=
  timerService_run (stepStart s rest)

@[simp] theorem timerService_contIn (s : State) : (timerService s).contIn = s.contIn := by
  rw [timerService_eq]

@[simp] theorem readyToExecute_contIn (s : State) (rest : List HostEvent) :
    (readyToExecute s rest).contIn = s.contIn :=
  timerService_contIn (stepStart s rest)

/-- What a step of the engine leaves in a run: a recorded fault, a run ended by `CONTINUE` = 0, a run that
goes on, or what the decoded instruction makes of `RUN` (35_instruction_cycle.md R111). -/
theorem run_of_engine_step {s t : State} {rest : List HostEvent} (hrun : s.run = .running)
    (hstep : leavesStep s rest) (h : step s = .next t) :
    (t.run = .haltedFault ∧ t.fault.kind ≠ .none)
      ∨ (t.run = .haltedExternal ∧ s.contIn = false)
      ∨ t.run = .running
      ∨ (s.pc.toNat + 1 < 4096 ∧ ∃ i,
          decodeOp (opcodeOf (Memory.get s.mem s.pc.toNat) (Memory.get s.mem (s.pc.toNat + 1))) = .ok i
            ∧ ((t.run = .waitKey ∧ ∃ x, i = .ldkp x)
              ∨ (t.run = .haltedNormal ∧ i = .assert)
              ∨ (t.run = .haltedLoop ∧ ∃ nnn : Addr, i = .jp nnn ∧ nnn.toNat = s.pc.toNat))) := by
  by_cases hpc : s.pc.toNat + 1 < 4096
  · rw [step_eq_executeWord hrun hstep hpc] at h
    cases hdec : decodeOp (opcodeOf (Memory.get s.mem s.pc.toNat) (Memory.get s.mem (s.pc.toNat + 1))) with
    | error e =>
      rw [executeWord_of_error _ hdec] at h
      cases h
      exact .inl ⟨rfl, faultKind_ne_none .decodeFailure⟩
    | ok i =>
      obtain ⟨u, hu⟩ := exec_isNext i (readyToExecute s rest)
      rw [executeWord_of_ok _ hdec, hu, thenPoll_next] at h
      cases h
      rcases poll_run_cases u with e | ⟨hcont, hext, -, -⟩
      · rw [e]
        rcases exec_run_cases hu ((readyToExecute_run s rest).trans hrun) with
          hf | hgo | hwait | hassert | ⟨hloop, nnn, rfl, hself⟩
        · exact .inl hf
        · exact .inr (.inr (.inl hgo))
        · exact .inr (.inr (.inr ⟨hpc, i, rfl, .inl hwait⟩))
        · exact .inr (.inr (.inr ⟨hpc, i, rfl, .inr (.inl hassert)⟩))
        · rw [readyToExecute_instrAddr, addrWord_eq_ofNat] at hself
          have hval : nnn.toNat = s.pc.toNat := by
            rw [← hself, BitVec.toNat_ofNat, Nat.mod_eq_of_lt (by omega)]
          exact .inr (.inr (.inr ⟨hpc, _, rfl, .inr (.inr ⟨hloop, nnn, rfl, hval⟩)⟩))
      · rw [exec_contIn hu, readyToExecute_contIn] at hcont
        exact .inr (.inl ⟨hext, hcont⟩)
  · rw [step_of_running hrun hstep, fetchAndExecute_of_ge (by rw [timerService_pc, stepStart_pc]; omega)] at h
    cases h
    exact .inl ⟨rfl, nofun⟩

theorem engineStep_of_waitKey {s : State} (h : s.run = .waitKey) : engineStep s = .next (poll s) := by
  simp only [engineStep, h]

theorem engineStep_of_idle {s : State} (h : s.run.idle = true) : engineStep s = .next s := by
  cases hr : s.run <;> simp [engineStep, hr] <;> rw [hr] at h <;> cases h

/-- A run state is Running, WaitKey or idle (10_state.md R22). -/
theorem run_cases (r : RunState) : r = .running ∨ r = .waitKey ∨ r.idle = true := by
  cases r <;> simp [RunState.idle]

/-- Settles O29: in Ready and the halted states the engine's step is the identity. -/
theorem idleStatesAreFrozen : Obligations.IdleStatesAreFrozen := by
  intro s rest hidle hstep
  exact (step_of_leavesStep hstep).trans (engineStep_of_idle (s := stepStart s rest) hidle)

/-! ### The host's events -/

theorem hostReset_of_idle {s : State} (h : s.run.idle = true) : hostReset s = resetCore s :=
  if_neg (by rw [inRun_eq_not_idle, h]; decide)

theorem hostStart_of_idle {s : State} (h : s.run.idle = true) :
    hostStart s = { s with pc := 0x200, exitCode := 0, fault := FaultRecord.clear, run := .running } :=
  if_neg (by rw [inRun_eq_not_idle, h]; decide)

theorem inRun_of_not_idle {s : State} (h : ¬s.run.idle = true) : s.inRun = true := by
  rw [inRun_eq_not_idle, Bool.eq_false_iff.mpr h]
  rfl

/-- LOAD writes the image, or it is refused. -/
theorem hostLoad_cases (image : List Byte) (s : State) :
    hostLoad image s = s ∨ (image.length ≤ 3584
      ∧ hostLoad image s = s.setMem (writeBytes s.mem Config.origin image)) := by
  unfold hostLoad
  split
  · exact .inl rfl
  · next h =>
    have hmax : Config.maxImage = 3584 := rfl
    simp only [hmax, Bool.or_eq_true, decide_eq_true_eq, not_or] at h
    exact .inr ⟨by omega, rfl⟩

theorem hostExtTick_cases (s : State) : hostExtTick s = s ∨ hostExtTick s = tick s := by
  unfold hostExtTick
  split
  · exact .inr rfl
  · exact .inl rfl

/-- A change of `CONTINUE` cancels a key wait when it is the fall to 0; it only sets the level otherwise. -/
theorem hostSetContinue_cases (level : Bool) (s : State) :
    (level = false ∧ s.run = .waitKey ∧ hostSetContinue level s = cancelWait { s with contIn := level })
      ∨ (¬(level = false ∧ s.run = .waitKey) ∧ hostSetContinue level s = { s with contIn := level }) := by
  by_cases h : level = false ∧ s.run = .waitKey
  · exact .inl ⟨h.1, h.2, if_pos h⟩
  · exact .inr ⟨h, if_neg h⟩

theorem hostKeyEvent_of_waitKey (k : Nibble) {s : State} (h : s.run = .waitKey) :
    hostKeyEvent k s = poll ((s.setReg s.waitReg (BitVec.ofNat 8 k.val)).setRun .running) :=
  if_pos h

theorem hostKeyEvent_of_not_waitKey (k : Nibble) {s : State} (h : s.run ≠ .waitKey) :
    hostKeyEvent k s = s :=
  if_neg h

theorem hostSetExtTimer_cases (level : Bool) (s : State) :
    (s.inRun = true ∧ level = !s.extTimer ∧ hostSetExtTimer level s = .refused .extTimerChangedDuringRun)
      ∨ hostSetExtTimer level s = .next { s with extTimer := level } := by
  unfold hostSetExtTimer
  split
  · next h =>
    rw [Bool.and_eq_true, bne_iff_ne] at h
    exact .inl ⟨h.1, (Bool.eq_not_of_ne h.2), rfl⟩
  · exact .inr rfl

/-! ### The table -/

/-- What an event of the host's can make of `RUN` (35_instruction_cycle.md R111). -/
theorem run_of_hostStep {u t : State} {e : HostEvent} (hpass : e ≠ .pass) (h : hostStep e u = .next t)
    (hne : t.run ≠ u.run) :
    (u.run.idle = true ∧ t.run = .ready ∧ e = .reset)
      ∨ (u.run.idle = true ∧ t.run = .running ∧ e = .start)
      ∨ (u.run = .waitKey ∧ t.run = .running ∧ ∃ k, e = .keyEvent k)
      ∨ (u.run = .waitKey ∧ t.run = .haltedExternal ∧ t.contIn = false) := by
  cases e with
  | pass => exact absurd rfl hpass
  | reset =>
    cases h
    by_cases hidle : u.run.idle = true
    · exact .inl ⟨hidle, by rw [hostReset_of_idle hidle]; rfl, rfl⟩
    · rw [hostReset_of_inRun (inRun_of_not_idle hidle)] at hne
      exact absurd rfl hne
  | start =>
    cases h
    by_cases hidle : u.run.idle = true
    · exact .inr (.inl ⟨hidle, by rw [hostStart_of_idle hidle], rfl⟩)
    · rw [hostStart_of_inRun (inRun_of_not_idle hidle)] at hne
      exact absurd rfl hne
  | load image =>
    cases h
    rcases hostLoad_cases image u with e | ⟨_, e⟩ <;> rw [e] at hne <;> exact absurd rfl hne
  | setContinue level =>
    cases h
    rcases hostSetContinue_cases level u with ⟨rfl, hwait, e⟩ | ⟨_, e⟩
    · rw [e]
      exact .inr (.inr (.inr ⟨hwait, rfl, rfl⟩))
    · rw [e] at hne
      exact absurd rfl hne
  | setExtTimer level =>
    rcases hostSetExtTimer_cases level u with ⟨_, _, e⟩ | e <;> rw [hostStep, e] at h <;> cases h
    exact absurd rfl hne
  | setTickDue level => cases h; exact absurd rfl hne
  | setKeyDown answers => cases h; exact absurd rfl hne
  | extTick =>
    cases h
    rcases hostExtTick_cases u with e | e <;> rw [e] at hne <;> exact absurd rfl hne
  | keyEvent k =>
    cases h
    by_cases hwait : u.run = .waitKey
    · rw [hostKeyEvent_of_waitKey k hwait]
      rcases poll_run_cases ((u.setReg u.waitReg (BitVec.ofNat 8 k.val)).setRun .running) with
        e | ⟨_, hext, hcont, _⟩
      · rw [e]
        exact .inr (.inr (.inl ⟨hwait, rfl, k, rfl⟩))
      · exact .inr (.inr (.inr ⟨hwait, hext, hcont⟩))
    · rw [hostKeyEvent_of_not_waitKey k hwait] at hne
      exact absurd rfl hne
  | keyEventAndStop k =>
    cases h
    by_cases hwait : u.run = .waitKey
    · rw [if_pos hwait, hostKeyEvent_of_waitKey k (s := { u with contIn := false }) hwait,
        poll_of_running rfl rfl]
      exact .inr (.inr (.inr ⟨hwait, rfl, rfl⟩))
    · rw [if_neg hwait] at hne
      exact absurd rfl hne

/-- Settles O17: a change of `RUN` is made by an event of the host's (`run_of_hostStep`) or by the engine, in
a run (`run_of_engine_step`) or at the end of a key wait. -/
theorem runStateChangesOnlyByTheTable : Obligations.RunStateChangesOnlyByTheTable := by
  intro s t h hne
  rcases step_cases s with ⟨rest, hstep⟩ | ⟨e, rest, hpass, hhost⟩
  · rcases run_cases s.run with hrun | hwait | hidle
    · refine .inr (.inr (.inr (.inr ⟨hrun, ⟨rest, hstep⟩, ?_⟩)))
      rcases run_of_engine_step hrun hstep h with hfault | hext | hgo | hinstr
      · exact .inl hfault
      · exact .inr (.inl hext)
      · exact absurd (hgo.trans hrun.symm) hne
      · exact .inr (.inr hinstr)
    · rw [step_of_leavesStep hstep, engineStep_of_waitKey (s := stepStart s rest) hwait] at h
      cases h
      rcases poll_run_cases (stepStart s rest) with e | ⟨_, hext, hcont, _⟩
      · rw [e] at hne
        exact absurd rfl hne
      · exact .inr (.inr (.inr (.inl ⟨hwait, hext, hcont⟩)))
    · rw [step_of_leavesStep hstep, engineStep_of_idle (s := stepStart s rest) hidle] at h
      cases h
      exact absurd rfl hne
  · rw [step_of_event hhost] at h
    rcases run_of_hostStep (u := stepStart s rest) hpass h hne with
      ⟨hidle, hready, rfl⟩ | ⟨hidle, hrun, rfl⟩ | ⟨hwait, hrun, k, rfl⟩ | hcancel
    · exact .inl ⟨hidle, hready, rest, hhost⟩
    · exact .inr (.inl ⟨hidle, hrun, rest, hhost⟩)
    · exact .inr (.inr (.inl ⟨hwait, hrun, k, rest, hhost⟩))
    · exact .inr (.inr (.inr (.inl hcancel)))

/-! ### What a step answers -/

theorem executeWord_isNext (op : Word) (s : State) : ∃ t, executeWord op s = .next t := by
  cases hdec : decodeOp op with
  | error e => exact ⟨_, executeWord_of_error s hdec⟩
  | ok i =>
    obtain ⟨u, hu⟩ := exec_isNext i s
    exact ⟨poll u, by rw [executeWord_of_ok s hdec, hu, thenPoll_next]⟩

theorem engineStep_isNext (s : State) : ∃ t, engineStep s = .next t := by
  rcases run_cases s.run with hrun | hwait | hidle
  · rw [engineStep_of_running hrun, cycle]
    cases hfetch : fetch (timerService s) with
    | error f => exact ⟨_, fetchAndExecute_of_error hfetch⟩
    | ok op =>
      rw [fetchAndExecute_of_ok hfetch]
      exact executeWord_isNext op _
  · exact ⟨_, engineStep_of_waitKey hwait⟩
  · exact ⟨_, engineStep_of_idle hidle⟩

/-- Settles O20: the engine's step and every event answer a next state, but for the change of `EXT_TIMER`
in a run. -/
theorem onlyTheHostStopsTheMachine : Obligations.OnlyTheHostStopsTheMachine := by
  intro s
  rcases step_cases s with ⟨rest, hstep⟩ | ⟨e, rest, hpass, hhost⟩
  · rw [step_of_leavesStep hstep]
    exact .inl (engineStep_isNext _)
  · rw [step_of_event hhost]
    cases e with
    | pass => exact absurd rfl hpass
    | setExtTimer level =>
      rcases hostSetExtTimer_cases level (stepStart s rest) with ⟨hrun, rfl, e⟩ | e
      · refine .inr ⟨e, ?_, rest, hhost⟩
        rw [stepStart_inRun, inRun_eq_not_idle] at hrun
        simpa using hrun
      · exact .inl ⟨_, e⟩
    | _ => exact .inl ⟨_, rfl⟩

end Sys2Proof.Machine
end

section
/-! The invariant of the machine (10_state.md sections 3 to 8). An execution keeps all of it but the clause on
the key wait (`InvBeforePoll`), which the poll that follows restores. -/
namespace Sys2Proof.Machine

/-- The clauses of `State.Inv` that hold between an execution and the poll after it. -/
abbrev State.InvBeforePoll (s : State) : Prop :=
  Memory.wf s.mem = true ∧ s.i.toNat < 0x1000 ∧ s.pc.toNat ≤ 0x10FE ∧ stackSound s = true
    ∧ (s.fault.kind ≠ .none ↔ s.run = .haltedFault)
    ∧ (s.exitCode ≠ 0 → s.run = .haltedNormal)

theorem State.Inv.beforePoll {s : State} (h : s.Inv) : s.InvBeforePoll := by
  obtain ⟨hmem, hi, hpc, hstack, hfault, hexit, -⟩ := h
  exact ⟨hmem, hi, hpc, hstack, hfault, hexit⟩

theorem inv_of_beforePoll {s : State} (h : s.InvBeforePoll) (hwait : s.run = .waitKey → s.contIn = true) :
    s.Inv := by
  obtain ⟨hmem, hi, hpc, hstack, hfault, hexit⟩ := h
  exact ⟨hmem, hi, hpc, hstack, hfault, hexit, hwait⟩

/-! ### Memory, `I` and the stack after an execution -/

/-- A memory that `MemWrite` answers is in canonical form (20_memory.md R63). -/
theorem wf_of_memWrite_ok {m m' : Memory} {addr : Nat} {bs : List Byte} (hm : Memory.wf m = true)
    (h : memWrite m addr bs = .ok m') : Memory.wf m' = true := by
  rcases memWrite_cases m addr bs with ⟨hin, e⟩ | ⟨_, e⟩ <;> rw [e] at h <;> cases h
  rcases hin with rfl | hle
  · exact hm
  · exact writeBytes_wf m addr bs hm hle

theorem exec_mem_wf {i : Instr} {s t : State} (hm : Memory.wf s.mem = true) (h : exec i s = .next t) :
    Memory.wf t.mem = true := by
  by_cases hp : .mem ∈ touches i
  · obtain ⟨x, rfl⟩ | ⟨x, rfl⟩ := mem_mem_touches.mp hp
    · exact orRaise_keeps (P := fun t => Memory.wf t.mem = true) h (fun _ => hm)
        fun _ hv => wf_of_memWrite_ok hm hv
    · exact orRaise_keeps (P := fun t => Memory.wf t.mem = true) h (fun _ => hm)
        fun _ hv => wf_of_memWrite_ok hm hv
  · obtain ⟨r, hf⟩ := exec_frame h
    exact (hf.mem hp : t.mem = s.mem) ▸ hm

theorem exec_i_lt {i : Instr} {s t : State} (hi : s.i.toNat < 0x1000) (h : exec i s = .next t) :
    t.i.toNat < 0x1000 := by
  by_cases hp : .i ∈ touches i
  · obtain ⟨nnn, rfl⟩ | ⟨x, rfl⟩ | ⟨x, rfl⟩ | ⟨x, rfl⟩ | ⟨x, rfl⟩ := i_mem_touches.mp hp
    · cases h; exact setI_i_lt s _
    · cases h; exact setI_i_lt s _
    · cases h; exact setI_i_lt s _
    · exact orRaise_keeps (P := fun t => t.i.toNat < 0x1000) h (fun _ => hi) fun _ _ => setI_i_lt _ _
    · exact orRaise_keeps (P := fun t => t.i.toNat < 0x1000) h (fun _ => hi) fun _ _ => setI_i_lt _ _
  · obtain ⟨r, hf⟩ := exec_frame h
    exact (hf.i hp : t.i = s.i) ▸ hi

theorem stackSound_iff (s : State) : stackSound s = true ↔
    s.sp ≤ s.stack.length ∧ (∀ depth, s.stackDepth = some depth → s.stack.length ≤ depth)
      ∧ ∀ w ∈ s.stack, w.toNat ≤ 0x1000 := by
  cases hd : s.stackDepth <;> simp [stackSound, hd, and_assoc]

/-- Every slot of a sound stack holds an address a CALL can push (10_state.md R19). -/
theorem slot_le_of_stackSound {s : State} (h : stackSound s = true) (k : Nat) :
    (s.slot k).toNat ≤ 0x1000 := by
  obtain ⟨-, -, hwords⟩ := (stackSound_iff s).mp h
  rw [State.slot, List.getD_eq_getElem?_getD]
  cases hk : s.stack[k]? with
  | none => simp
  | some w => exact hwords w (List.mem_of_getElem? hk)

/-- A push of an address on a sound stack that is not full leaves a sound stack (10_state.md R25). -/
theorem stackSound_push {s : State} {w : Word} (hw : w.toNat ≤ 0x1000) (h : stackSound s = true)
    (hfull : s.stackFull = false) :
    stackSound { s with stack := setSlot s.stack s.sp w, sp := s.sp + 1 } = true := by
  obtain ⟨hsp, hdepth, hwords⟩ := (stackSound_iff s).mp h
  refine (stackSound_iff _).mpr ⟨?_, fun depth hd => ?_, fun a ha => ?_⟩
  · simp only [setSlot_length]; omega
  · have hlen := hdepth depth hd
    have hlt : s.sp < depth := by
      simp only [State.stackFull] at hfull
      change s.stackDepth = some depth at hd
      simpa [hd] using hfull
    simp only [setSlot_length]
    omega
  · rcases mem_setSlot ha with rfl | rfl | hmem
    · exact hw
    · decide
    · exact hwords a hmem

theorem stackSound_pop {s : State} (h : stackSound s = true) :
    stackSound { s with sp := s.sp - 1 } = true := by
  obtain ⟨hsp, hdepth, hwords⟩ := (stackSound_iff s).mp h
  exact (stackSound_iff _).mpr ⟨by simp only; omega, hdepth, hwords⟩

theorem exec_stackSound {i : Instr} {s t : State} (hpc : s.pc.toNat ≤ 0x1000)
    (hs : stackSound s = true) (h : exec i s = .next t) : stackSound t = true := by
  by_cases hp : .sp ∈ touches i
  · obtain ⟨nnn, rfl⟩ | rfl := sp_mem_touches.mp hp
    · refine orRaise_keeps (P := fun t => stackSound t = true) h (fun _ => hs) fun u hu => ?_
      rcases push_cases s.pc s with ⟨_, e⟩ | ⟨hfull, e⟩ <;> rw [e] at hu <;> cases hu
      exact stackSound_push hpc hs hfull
    · refine orRaise_keeps (P := fun t => stackSound t = true) h (fun _ => hs) fun r hr => ?_
      obtain ⟨-, hstate⟩ := pop_ok_inv hr
      rw [hstate]
      exact stackSound_pop hs
  · obtain ⟨r, hf⟩ := exec_frame h
    have hstack : .stack ∉ touches i := fun hp' => hp (sp_mem_touches.mpr (.inl (stack_mem_touches.mp hp')))
    have hsp : t.sp = s.sp := hf.sp hp
    have hst : t.stack = s.stack := hf.stack hstack
    have hdepth : t.stackDepth = s.stackDepth := hf.stackDepth
    rw [stackSound_iff] at hs ⊢
    rwa [hsp, hst, hdepth]

/-! ### `PC` after an execution -/

/-- Where an instruction at an address that could be fetched leaves `PC` (10_state.md R15, R16). -/
theorem pcAfter_le {a : Word} {i : Instr} {s : State} (ha : a.toNat + 2 ≤ 0x1000)
    (hs : stackSound s = true) : (pcAfter a i s).toNat ≤ 0x10FE := by
  have h2 : (a + 2).toNat ≤ 0x10FE := by rw [BitVec.toNat_add]; simp; omega
  have h4 : (a + 4).toNat ≤ 0x10FE := by rw [BitVec.toNat_add]; simp; omega
  cases i with
  | ret => exact (slot_le_of_stackSound hs _).trans (by decide)
  | jp nnn | call nnn =>
    have := nnn.isLt
    simp only [pcAfter, BitVec.toNat_ofNat]
    omega
  | jpv0 nnn =>
    have := nnn.isLt
    have := (s.reg 0).isLt
    simp only [pcAfter, BitVec.toNat_ofNat]
    omega
  | se x kk | sne x kk | sev x y | snev x y | skp x | sknp x =>
    simp only [pcAfter]
    split <;> assumption
  | _ => exact h2

theorem exec_pc_le {i : Instr} {s t : State} {a : Word} (hpc : s.pc = a + 2) (ha : a.toNat + 2 ≤ 0x1000)
    (hrun : s.run = .running) (hs : stackSound s = true) (h : exec i s = .next t) :
    t.pc.toNat ≤ 0x10FE := by
  rcases exec_advances_or_raises hpc hrun h with ⟨_, hpc'⟩ | ⟨f, op, rfl⟩
  · rw [hpc']
    exact pcAfter_le ha hs
  · rw [raise_pc, hpc, BitVec.toNat_add]
    simp
    omega

/-! ### `RUN`, `FAULT` and `EXIT_CODE` -/

/-- What the invariant says of a state that is neither Halted-Fault nor Halted-Normal. -/
theorem clean_of_inv {s : State} (h : s.InvBeforePoll) (hf : s.run ≠ .haltedFault)
    (hn : s.run ≠ .haltedNormal) : s.fault.kind = .none ∧ s.exitCode = 0 := by
  obtain ⟨-, -, -, -, hfault, hexit⟩ := h
  exact ⟨by_contra fun hk => hf (hfault.mp hk), by_contra fun he => hn (hexit he)⟩

/-- `RUN` may leave a state that is neither Halted-Fault nor Halted-Normal for any but Halted-Fault. -/
theorem inv_setRun {s : State} {r : RunState} (h : s.InvBeforePoll) (hf : s.run ≠ .haltedFault)
    (hn : s.run ≠ .haltedNormal) (hr : r ≠ .haltedFault) : (s.setRun r).InvBeforePoll := by
  obtain ⟨hkind, hexit⟩ := clean_of_inv h hf hn
  obtain ⟨hmem, hi, hpc, hstack, -, -⟩ := h
  exact ⟨hmem, hi, hpc, hstack, ⟨fun hk => absurd hkind hk, fun e => absurd e hr⟩,
    fun he => absurd hexit he⟩

theorem inv_raise {s : State} (f : Fault) (op : Word) (h : s.InvBeforePoll) (hrun : s.run = .running) :
    (raise f op s).Inv := by
  obtain ⟨-, hexit⟩ := clean_of_inv h (by simp [hrun]) (by simp [hrun])
  obtain ⟨hmem, hi, hpc, hstack, -, -⟩ := h
  exact ⟨hmem, hi, hpc, hstack, ⟨fun _ => rfl, fun _ => faultKind_ne_none f⟩, fun he => absurd hexit he,
    nofun⟩

theorem inv_poll {s : State} (h : s.InvBeforePoll) : (poll s).Inv := by
  rcases poll_cases s with e | ⟨hc, hr, e⟩ | ⟨hc, hr, e⟩
  · rw [e]
    refine inv_of_beforePoll h fun hwait => by_contra fun hc => ?_
    have hcancel := poll_of_waitKey s hwait (Bool.eq_false_iff.mpr hc)
    rw [e] at hcancel
    have := congrArg State.run hcancel
    rw [hwait] at this
    cases this
  · rw [e]
    exact inv_of_beforePoll (inv_setRun h (by simp [hr]) (by simp [hr]) (by simp)) nofun
  · rw [e]
    exact inv_of_beforePoll (s := cancelWait s)
      (inv_setRun (r := .haltedExternal) h (by simp [hr]) (by simp [hr]) (by simp)) nofun

/-! ### The engine's step -/

theorem inv_exec {i : Instr} {s t : State} {a : Word} (h : s.InvBeforePoll) (hpc : s.pc = a + 2)
    (ha : a.toNat + 2 ≤ 0x1000) (hrun : s.run = .running) (hexec : exec i s = .next t) :
    t.InvBeforePoll := by
  obtain ⟨hkind, hexit⟩ := clean_of_inv h (by simp [hrun]) (by simp [hrun])
  rcases exec_cases hexec with ⟨f, -, rfl⟩ | hc
  · exact (inv_raise f (encode i) h hrun).beforePoll
  · obtain ⟨hmem, hi, -, hstack, -, -⟩ := h
    have hpc' : s.pc.toNat ≤ 0x1000 := by
      rw [hpc, BitVec.toNat_add]
      simp
      omega
    refine ⟨exec_mem_wf hmem hexec, exec_i_lt hi hexec, exec_pc_le hpc ha hrun hstack hexec,
      exec_stackSound hpc' hstack hexec, ⟨fun hk => ?_, fun e => ?_⟩, fun he => ?_⟩
    · exact absurd (hc.fault ▸ hkind) hk
    · exact absurd e (run_ne_haltedFault_of_changesOnly hexec hrun hc)
    · by_cases hp : .exitCode ∈ touches i
      · obtain rfl := exitCode_mem_touches.mp hp
        exact run_of_exec_assert hexec
      · exact absurd ((hc.exitCode hp).trans hexit) he

theorem inv_executeWord {op : Word} {s t : State} {a : Word} (h : s.InvBeforePoll) (hpc : s.pc = a + 2)
    (ha : a.toNat + 2 ≤ 0x1000) (hrun : s.run = .running) (hstep : executeWord op s = .next t) : t.Inv := by
  cases hdec : decodeOp op with
  | error e =>
    rw [executeWord_of_error s hdec] at hstep
    cases hstep
    exact inv_raise _ _ h hrun
  | ok i =>
    obtain ⟨u, hu⟩ := exec_isNext i s
    rw [executeWord_of_ok s hdec, hu, thenPoll_next] at hstep
    cases hstep
    exact inv_poll (inv_exec h hpc ha hrun hu)

theorem inv_tick {s : State} (h : s.Inv) : (tick s).Inv := h

theorem inv_timerService {s : State} (h : s.Inv) : (timerService s).Inv := by
  rw [timerService_eq]
  exact h

/-- A cycle: the state the word is executed in has `PC` at the address fetched plus 2. -/
theorem inv_cycle {s t : State} (h : s.Inv) (hrun : s.run = .running) (hstep : cycle s = .next t) :
    t.Inv := by
  have hu := inv_timerService h
  have hurun := (timerService_run s).trans hrun
  rw [cycle] at hstep
  generalize timerService s = u at hu hurun hstep
  rcases fetch_cases u with ⟨hpc, e⟩ | ⟨_, e⟩
  · rw [fetchAndExecute_of_ok e] at hstep
    have hadv : (advance (notify u)).pc = u.pc + 2 := rfl
    refine inv_executeWord (a := u.pc) ?_ hadv (by omega) hurun hstep
    obtain ⟨hmem, hi, -, hstack, hfault, hexit, -⟩ := hu
    refine ⟨hmem, hi, ?_, hstack, hfault, hexit⟩
    rw [hadv, BitVec.toNat_add]
    simp
    omega
  · rw [fetchAndExecute_of_error e] at hstep
    cases hstep
    exact inv_raise _ _ hu.beforePoll hurun

theorem inv_engineStep {s t : State} (h : s.Inv) (hstep : engineStep s = .next t) : t.Inv := by
  rcases run_cases s.run with hrun | hwait | hidle
  · rw [engineStep_of_running hrun] at hstep
    exact inv_cycle h hrun hstep
  · rw [engineStep_of_waitKey hwait] at hstep
    cases hstep
    exact inv_poll h.beforePoll
  · rw [engineStep_of_idle hidle] at hstep
    cases hstep
    exact h

/-! ### The host's events -/

theorem stackSound_empty {s : State} (hstack : s.stack = []) (hsp : s.sp = 0) : stackSound s = true := by
  simp [stackSound_iff, hstack, hsp]

theorem inv_hostReset {s : State} (h : s.Inv) : (hostReset s).Inv := by
  by_cases hidle : s.run.idle = true
  · obtain ⟨hmem, -⟩ := h
    rw [hostReset_of_idle hidle]
    exact ⟨resetCore_wf s hmem, (by decide : (0 : Word).toNat < 0x1000),
      (by decide : (0x200 : Word).toNat ≤ 0x10FE), stackSound_empty rfl rfl,
      ⟨fun hk => absurd rfl hk, nofun⟩, fun he => absurd rfl he, nofun⟩
  · rwa [hostReset_of_inRun (inRun_of_not_idle hidle)]

theorem inv_hostStart {s : State} (h : s.Inv) : (hostStart s).Inv := by
  by_cases hidle : s.run.idle = true
  · obtain ⟨hmem, hi, -, hstack, -⟩ := h
    rw [hostStart_of_idle hidle]
    exact ⟨hmem, hi, (by decide : (0x200 : Word).toNat ≤ 0x10FE), hstack,
      ⟨fun hk => absurd rfl hk, nofun⟩, fun he => absurd rfl he, nofun⟩
  · rwa [hostStart_of_inRun (inRun_of_not_idle hidle)]

theorem inv_hostLoad {s : State} (image : List Byte) (h : s.Inv) : (hostLoad image s).Inv := by
  rcases hostLoad_cases image s with e | ⟨hlen, e⟩ <;> rw [e]
  · exact h
  · obtain ⟨hmem, hrest⟩ := h
    have horigin : Config.origin = 0x200 := rfl
    exact ⟨writeBytes_wf s.mem _ image hmem (by omega), hrest⟩

theorem inv_hostSetContinue {s : State} (level : Bool) (h : s.Inv) : (hostSetContinue level s).Inv := by
  rcases hostSetContinue_cases level s with ⟨rfl, hwait, e⟩ | ⟨hno, e⟩ <;> rw [e]
  · rw [← poll_of_waitKey { s with contIn := false } hwait rfl]
    exact inv_poll (s := { s with contIn := false }) h.beforePoll
  · refine inv_of_beforePoll (s := { s with contIn := level }) h.beforePoll fun hwait => ?_
    cases level
    · exact absurd ⟨rfl, hwait⟩ hno
    · rfl

theorem inv_hostKeyEvent {s : State} (k : Nibble) (h : s.InvBeforePoll) (hwait : s.run = .waitKey) :
    (hostKeyEvent k s).Inv := by
  rw [hostKeyEvent_of_waitKey k hwait]
  exact inv_poll (s := (s.setReg s.waitReg (BitVec.ofNat 8 k.val)).setRun .running)
    (inv_setRun (r := .running) h (by simp [hwait]) (by simp [hwait]) (by simp))

theorem inv_hostStep {e : HostEvent} {s t : State} (h : s.Inv) (hstep : hostStep e s = .next t) :
    t.Inv := by
  cases e with
  | pass => exact inv_engineStep h hstep
  | reset => cases hstep; exact inv_hostReset h
  | start => cases hstep; exact inv_hostStart h
  | load image => cases hstep; exact inv_hostLoad image h
  | setContinue level => cases hstep; exact inv_hostSetContinue level h
  | setExtTimer level =>
    rcases hostSetExtTimer_cases level s with ⟨_, _, e⟩ | e <;> rw [hostStep, e] at hstep <;> cases hstep
    exact h
  | setTickDue level => cases hstep; exact h
  | setKeyDown answers => cases hstep; exact h
  | extTick =>
    cases hstep
    rcases hostExtTick_cases s with e | e <;> rw [e]
    · exact h
    · exact inv_tick h
  | keyEvent k =>
    cases hstep
    by_cases hwait : s.run = .waitKey
    · exact inv_hostKeyEvent k h.beforePoll hwait
    · rwa [hostKeyEvent_of_not_waitKey k hwait]
  | keyEventAndStop k =>
    cases hstep
    by_cases hwait : s.run = .waitKey
    · rw [if_pos hwait]
      exact inv_hostKeyEvent k (s := { s with contIn := false }) h.beforePoll hwait
    · rw [if_neg hwait]
      exact inv_of_beforePoll (s := { s with contIn := false }) h.beforePoll fun hw => absurd hw hwait

/-- Settles O18: a step is an event's or the engine's, on the state without the old pulses, and each keeps
the invariant. -/
theorem stepKeepsTheInvariant : Obligations.StepKeepsTheInvariant := by
  intro s t h hstep
  rcases step_cases s with ⟨rest, hleave⟩ | ⟨e, rest, -, hhost⟩
  · rw [step_of_leavesStep hleave] at hstep
    exact inv_engineStep (s := stepStart s rest) h hstep
  · rw [step_of_event hhost] at hstep
    exact inv_hostStep (s := stepStart s rest) h hstep

/-- Settles O19: the reset state has the power-on memory, an empty stack and RUN = Ready. -/
theorem resetMeetsTheInvariant : Obligations.ResetMeetsTheInvariant :=
  ⟨rfl, by decide, by decide, stackSound_empty rfl rfl, by decide, by decide, nofun⟩

end Sys2Proof.Machine
end

section
/-! The primitives (20_memory.md R61 to R63, 10_state.md R25, R26, 35_instruction_cycle.md R120). -/
namespace Sys2Proof.Machine

/-! ### Memory spans -/

theorem memRead_of_inRange {m : Memory} {addr n : Nat} (h : n = 0 ∨ addr + n ≤ 4096) :
    memRead m addr n = .ok (readBytes m addr n) := by
  rcases memRead_cases m addr n with ⟨_, e⟩ | ⟨hout, _⟩
  · exact e
  · exact absurd h hout

theorem memRead_of_not_inRange {m : Memory} {addr n : Nat} (h : ¬(n = 0 ∨ addr + n ≤ 4096)) :
    memRead m addr n = .error (.outOfBounds (max addr 4096)) := by
  rcases memRead_cases m addr n with ⟨hin, _⟩ | ⟨_, e⟩
  · exact absurd hin h
  · exact e

theorem memWrite_of_inRange {m : Memory} {addr : Nat} {bs : List Byte}
    (h : bs = [] ∨ addr + bs.length ≤ 4096) : memWrite m addr bs = .ok (writeBytes m addr bs) := by
  rcases memWrite_cases m addr bs with ⟨_, e⟩ | ⟨hout, _⟩
  · exact e
  · exact absurd h hout

theorem memWrite_of_not_inRange {m : Memory} {addr : Nat} {bs : List Byte}
    (h : ¬(bs = [] ∨ addr + bs.length ≤ 4096)) :
    memWrite m addr bs = .error (.outOfBounds (max addr 4096)) := by
  rcases memWrite_cases m addr bs with ⟨hin, _⟩ | ⟨_, e⟩
  · exact absurd hin h
  · exact e

theorem readBytes_getElem? (m : Memory) (addr n k : Nat) (h : k < n) :
    (readBytes m addr n)[k]? = some (Memory.get m (addr + k)) := by
  have hk : k < (readBytes m addr n).length := by rwa [readBytes_length]
  rw [List.getElem?_eq_getElem hk, ← List.getD_eq_getElem _ 0 hk, readBytes_getD m addr n k 0 h]

/-- The bytes written stand at their addresses. -/
theorem get_writeBytes_add {m : Memory} {addr : Nat} {bs : List Byte} {k : Nat}
    (hm : Memory.wf m = true) (h : addr + bs.length ≤ 4096) (hk : k < bs.length) :
    Memory.get (writeBytes m addr bs) (addr + k) = bs.getD k 0 := by
  rw [writeBytes_get m addr bs _ hm h, if_pos (by omega), Nat.add_sub_cancel_left]

/-- No byte outside the span written changes. -/
theorem get_writeBytes_outside {m : Memory} {addr : Nat} {bs : List Byte} {a : Nat}
    (hm : Memory.wf m = true) (h : addr + bs.length ≤ 4096) (ha : a < addr ∨ addr + bs.length ≤ a) :
    Memory.get (writeBytes m addr bs) a = Memory.get m a := by
  rw [writeBytes_get m addr bs _ hm h, if_neg (by omega)]

theorem some_getD_eq_getElem? {bs : List Byte} {k : Nat} (h : k < bs.length) :
    some (bs.getD k 0) = bs[k]? := by
  rw [List.getElem?_eq_getElem h, List.getD_eq_getElem _ _ h]

/-- Settles O9: `memRead_cases`, and what each byte of a span read is. -/
theorem memReadGivesTheSpanOrFaults : Obligations.MemReadGivesTheSpanOrFaults :=
  fun m addr n => ⟨fun h => ⟨readBytes m addr n, memRead_of_inRange h, readBytes_length m addr n,
    readBytes_getElem? m addr n⟩, memRead_of_not_inRange⟩

/-- Settles O10: `memWrite_cases`, and a read after the bytes are written; an empty list writes nothing. -/
theorem memWriteWritesExactlyTheSpan : Obligations.MemWriteWritesExactlyTheSpan := by
  intro m addr bs hm
  refine ⟨fun h => ⟨writeBytes m addr bs, memWrite_of_inRange h, ?_⟩, memWrite_of_not_inRange⟩
  rcases h with rfl | h
  · exact ⟨hm, nofun, fun _ _ => rfl⟩
  · exact ⟨writeBytes_wf m addr bs hm h,
      fun k hk => by rw [get_writeBytes_add hm h hk, some_getD_eq_getElem? hk],
      fun a ha => get_writeBytes_outside hm h ha⟩

/-! ### The call stack -/

theorem push_of_full {s : State} {w : Word} (h : s.stackFull = true) : push w s = .error .stackOverflow := by
  rcases push_cases w s with ⟨_, e⟩ | ⟨hfree, _⟩
  · exact e
  · rw [h] at hfree; cases hfree

theorem push_of_not_full {s : State} {w : Word} (h : s.stackFull = false) :
    push w s = .ok { s with stack := setSlot s.stack s.sp w, sp := s.sp + 1 } := by
  rcases push_cases w s with ⟨hfull, _⟩ | ⟨_, e⟩
  · rw [h] at hfull; cases hfull
  · exact e

theorem stackFull_of_depth {s : State} (h : s.stackDepth = some s.sp) : s.stackFull = true := by
  simp [State.stackFull, h]

/-- The slot pushed holds the value, and no other slot changes (10_state.md R25). -/
theorem slot_pushed (s : State) (w : Word) (k : Nat) :
    State.slot { s with stack := setSlot s.stack s.sp w, sp := s.sp + 1 } k =
      if k = s.sp then w else s.slot k :=
  setSlot_getD s.stack s.sp k w

/-- Settles O11: a push writes slot SP and raises SP, so a pop reads the slot it wrote. -/
theorem stackIsLastInFirstOut : Obligations.StackIsLastInFirstOut := by
  intro s w
  refine ⟨fun hd => push_of_full (stackFull_of_depth hd), pop_of_sp_eq_zero, fun hfree =>
    ⟨_, push_of_not_full hfree, rfl, ?_, rfl, fun k hk => ?_, ?_⟩⟩
  · rw [slot_pushed, if_pos rfl]
  · rw [slot_pushed, if_neg hk]
  · rw [pop_of_sp_ne_zero (Nat.succ_ne_zero s.sp), slot_pushed, if_pos (Nat.add_sub_cancel ..)]
    rfl

/-! ### The tick -/

theorem tick_pulses_of_silent {s : State} (h : s.st = 0) : (tick s).pulses = s.pulses := by
  simp only [tick, beeps, if_pos h, List.append_nil]

theorem tick_pulses_of_sound {s : State} (h : s.st ≠ 0) : (tick s).pulses = s.pulses ++ [.beep] := by
  simp only [tick, beeps, if_neg h]

/-- Settles O12: both timers count down to the floor, and `beeps` tests the sound timer before it. -/
theorem tickCountsDownAndBeeps : Obligations.TickCountsDownAndBeeps :=
  fun s => ⟨countDown_toNat s.dt, countDown_toNat s.st, tick_pulses_of_silent, tick_pulses_of_sound, rfl⟩

end Sys2Proof.Machine
end

section
/-! Reset and the host's commands and events (70_reset_and_hazards.md, 15_interfaces.md). -/
namespace Sys2Proof.Machine

/-! ### Reset -/

theorem blank_font (j : Nat) : Memory.blank (0x1B0 + j) = Config.fontData.getD j 0 := by
  have hbase : Config.fontBase = 0x1B0 := rfl
  rw [Memory.blank, hbase, if_pos (Nat.le_add_right _ _), Nat.add_sub_cancel_left]

theorem blank_outside_font {a : Nat} (h : a < 0x1B0 ∨ 0x200 ≤ a) : Memory.blank a = 0 := by
  have hbase : Config.fontBase = 0x1B0 := rfl
  have hlen : Config.fontData.length = 80 := rfl
  rw [Memory.blank, hbase]
  split
  · exact List.getD_eq_default _ _ (by omega)
  · rfl

theorem reg_reset (x : Reg) : State.reset.reg x = 0 := by simp [State.reg, State.reset]

theorem cell_reset (y : Fin 32) (x : Fin 64) : Plane.cell State.reset.fb y x = false := cell_clear y x

/-- Settles O21: the fields of `State.reset`; its memory is all unlisted, so it reads as the font or 0. -/
theorem resetLeavesTheseValues : Obligations.ResetLeavesTheseValues :=
  ⟨reg_reset, rfl, rfl, rfl, rfl, rfl, fun _ => rfl, fun j _ => blank_font j,
    fun _ ha => blank_outside_font ha, cell_reset, rfl, rfl, rfl⟩

/-- Settles O22: outside a run the command is `resetCore`, which takes its values from `State.reset` and
writes the font. -/
theorem resetCommandRestoresTheCore : Obligations.ResetCommandRestoresTheCore := by
  intro s rest hhost hidle hm
  refine ⟨resetCore (stepStart s rest), ?_, reg_reset, rfl, rfl, rfl, rfl, rfl, fun _ => rfl,
    fun j => ?_, fun a ha => ?_, cell_reset, rfl, rfl, rfl, rfl, rfl, rfl, rfl, rfl, rfl, rfl, rfl, rfl⟩
  · rw [step_of_event hhost, hostStep, hostReset_of_idle (s := stepStart s rest) hidle]
  · have hj : j.val < s.font.toList.length := by rw [Vector.length_toList]; exact j.isLt
    rw [resetCore_mem (stepStart s rest) _ hm, if_pos (by omega), Nat.add_sub_cancel_left]
    change s.font.toList.getD j.val 0 = _
    rw [List.getD_eq_getElem _ _ hj]
    simp
  · rw [resetCore_mem (stepStart s rest) _ hm, if_neg (by omega)]
    rfl

/-! ### START and LOAD -/

/-- Settles O23: outside a run START is `hostStart`'s update. -/
theorem startCommandBeginsARun : Obligations.StartCommandBeginsARun := by
  intro s rest hhost hidle
  exact (step_of_event hhost).trans
    (congrArg Host.Outcome.next (hostStart_of_idle (s := stepStart s rest) hidle))

theorem hostLoad_of_fits {s : State} {image : List Byte} (hidle : s.run.idle = true)
    (hlen : image.length ≤ 3584) : hostLoad image s = s.setMem (writeBytes s.mem 0x200 image) := by
  have hmax : Config.maxImage = 3584 := rfl
  exact if_neg (by simp [inRun_eq_not_idle, hidle, hmax, hlen])

theorem hostLoad_of_too_long {s : State} {image : List Byte} (hlen : 3584 < image.length) :
    hostLoad image s = s := by
  have hmax : Config.maxImage = 3584 := rfl
  exact if_pos (by simp [hmax, hlen])

/-- Settles O24: an image that fits is written from 0x200, a longer one is refused. -/
theorem loadCommandWritesTheImage : Obligations.LoadCommandWritesTheImage := by
  intro s image rest hhost hidle hm
  refine ⟨fun hlen => ?_, fun hlen => ?_⟩
  · have hspan : 0x200 + image.length ≤ 4096 := by omega
    refine ⟨(stepStart s rest).setMem (writeBytes s.mem 0x200 image), ?_, rfl, fun k hk => ?_,
      fun a ha => get_writeBytes_outside hm hspan ha⟩
    · exact (step_of_event hhost).trans
        (congrArg Host.Outcome.next (hostLoad_of_fits (s := stepStart s rest) hidle hlen))
    · rw [State.setMem_mem, get_writeBytes_add hm hspan hk, some_getD_eq_getElem? hk]
  · exact (step_of_event hhost).trans
      (congrArg Host.Outcome.next (hostLoad_of_too_long (s := stepStart s rest) hlen))

/-! ### EXT_TICK -/

theorem hostExtTick_eq (s : State) :
    hostExtTick s = if s.extTimer = true ∧ s.run.idle = false then tick s else s := by
  simp only [hostExtTick, inRun_eq_not_idle, Bool.and_eq_true, Bool.not_eq_true']

/-- Settles O26: `hostExtTick` is guarded by `EXT_TIMER` and by the run. -/
theorem extTickTicksOnlyInARunOfTheHostsTimer : Obligations.ExtTickTicksOnlyInARunOfTheHostsTimer := by
  intro s rest hhost
  rw [step_of_event hhost, hostStep, hostExtTick_eq]
  exact ⟨fun hext hrun => congrArg Host.Outcome.next (if_pos ⟨hext, hrun⟩),
    fun hno => congrArg Host.Outcome.next (if_neg hno)⟩

/-! ### The key wait -/

/-- The state a key completes a key wait in, before the poll (45_timer_key.md R194). -/
def keyTaken (k : Nibble) (s : State) : State :=
  (s.setReg s.waitReg (BitVec.ofNat 8 k.val)).setRun .running

theorem keyTaken_waitReg (k : Nibble) (s : State) : ((keyTaken k s).reg s.waitReg).toNat = k.val := by
  have := k.isLt
  rw [keyTaken, State.reg_setRun, State.reg_setReg_same, BitVec.toNat_ofNat]
  omega

theorem keyTaken_keepsOthers (k : Nibble) (s : State) : keepsOtherRegs s (keyTaken k s) [s.waitReg] :=
  setReg_keepsOthers s s.waitReg _

/-- A key that arrives with `CONTINUE` = 1 lets the run go on; with 0 the poll ends it with the key
stored. -/
theorem hostKeyEvent_eq (k : Nibble) {s : State} (h : s.run = .waitKey) :
    hostKeyEvent k s = (keyTaken k s).setRun (if s.contIn then .running else .haltedExternal) := by
  rw [hostKeyEvent_of_waitKey k h]
  cases hc : s.contIn
  · exact poll_of_running rfl hc
  · exact poll_of_continue _ hc

/-- Settles O27: in a key wait the key is taken and the poll follows; outside it the event is ignored. -/
theorem keyEventCompletesTheKeyWait : Obligations.KeyEventCompletesTheKeyWait := by
  intro s k rest hhost
  rw [step_of_event hhost]
  refine ⟨fun hwait => ⟨_, congrArg Host.Outcome.next (hostKeyEvent_eq k (s := stepStart s rest) hwait),
    keyTaken_waitReg k (stepStart s rest), keyTaken_keepsOthers k (stepStart s rest), rfl, rfl⟩,
    fun hwait => congrArg Host.Outcome.next (hostKeyEvent_of_not_waitKey k (s := stepStart s rest) hwait)⟩

/-- Settles O28: the fall of `CONTINUE` cancels the key wait; a key that comes with it is taken first. -/
theorem continueFallingCancelsTheKeyWait : Obligations.ContinueFallingCancelsTheKeyWait := by
  intro s k rest hwait
  refine ⟨fun hhost => ?_, fun hhost => ?_⟩
  · rw [step_of_event hhost]
    exact ⟨cancelWait { stepStart s rest with contIn := false },
      congrArg Host.Outcome.next (if_pos ⟨rfl, hwait⟩), rfl,
      cancelWait_keepsOthers { stepStart s rest with contIn := false }, rfl⟩
  · rw [step_of_event hhost]
    refine ⟨(keyTaken k { stepStart s rest with contIn := false }).setRun .haltedExternal, ?_, rfl,
      keyTaken_waitReg k (stepStart s rest), keyTaken_keepsOthers k (stepStart s rest), rfl⟩
    exact congrArg Host.Outcome.next ((if_pos hwait).trans
      (hostKeyEvent_eq k (s := { stepStart s rest with contIn := false }) hwait))

end Sys2Proof.Machine
end

section
/-! Control transfer and skips (40_flow.md, 41_skip.md). -/
namespace Sys2Proof.Machine

/-! ### Words with their literals first -/

/-- A word of the format `XYL` as its literals and its registers. -/
theorem encXYN_eq (l n : Nat) (x y : Reg) :
    encXYN l x y n = BitVec.ofNat 16 (l * 4096 + n + x.val * 256 + y.val * 16) :=
  congrArg (BitVec.ofNat 16) (by omega)

/-- A word of the format `XLL` as its literals and its register. -/
theorem encXLL_eq (l ll : Nat) (x : Reg) :
    encXLL l x ll = BitVec.ofNat 16 (l * 4096 + ll + x.val * 256) :=
  congrArg (BitVec.ofNat 16) (by omega)

theorem hasWord_XYN {i : Instr} {l n w : Nat} {x y : Reg} (hwf : i.wellFormed = true)
    (he : encode i = encXYN l x y n) (hw : l * 4096 + n + x.val * 256 + y.val * 16 = w) : hasWord i w :=
  hasWord_of_encode hwf (hw ▸ he.trans (encXYN_eq l n x y))

theorem hasWord_XLL {i : Instr} {l ll w : Nat} {x : Reg} (hwf : i.wellFormed = true)
    (he : encode i = encXLL l x ll) (hw : l * 4096 + ll + x.val * 256 = w) : hasWord i w :=
  hasWord_of_encode hwf (hw ▸ he.trans (encXLL_eq l ll x))

/-! ### SYS, JP, CALL, JPV0 -/

/-- Settles O30: SYS is the identity, and its word is `nnn` but for the three of R130. -/
theorem sysDoesNothing : Obligations.SysDoesNothing := by
  refine fun nnn s => ⟨fun h0 hE0 hEE => hasWord_of_encode ?_ ?_, rfl⟩
  · simp only [Instr.wellFormed, sysTarget, Bool.and_eq_true, bne_iff_ne]
    exact ⟨⟨h0, hE0⟩, hEE⟩
  · simp [encode, encNNN]

theorem exec_jp_of_ne {nnn : Addr} {s : State} (h : addrWord nnn ≠ s.instrAddr) :
    exec (.jp nnn) s = .next (s.setPc (addrWord nnn)) := by
  simp only [exec, execJp, if_neg h]
  rfl

theorem exec_jp_of_eq {nnn : Addr} {s : State} (h : addrWord nnn = s.instrAddr) :
    exec (.jp nnn) s = .next ((s.setPc (addrWord nnn)).setRun .haltedLoop) := by
  simp only [exec, execJp, if_pos h]

/-- Settles O32: the guard of JP compares its target with its own address. -/
theorem jpJumpsAndHaltsOnItself : Obligations.JpJumpsAndHaltsOnItself :=
  fun _ _ => ⟨hasWord_of_encode rfl rfl, exec_jp_of_ne, exec_jp_of_eq⟩

theorem exec_call_of_push_ok {nnn : Addr} {s u : State} (h : push s.pc s = .ok u) :
    exec (.call nnn) s = .next (u.setPc (addrWord nnn)) := by
  simp only [exec, execCall, h, orRaise]

theorem exec_call_of_push_error {nnn : Addr} {s : State} {f : Fault} (h : push s.pc s = .error f) :
    exec (.call nnn) s = .next (raise f (encode (.call nnn)) s) := by
  simp only [exec, execCall, h, orRaise]

/-- Settles O33: CALL is a push of the advanced `PC`, then a jump. -/
theorem callPushesTheReturnAddress : Obligations.CallPushesTheReturnAddress := by
  intro nnn s
  refine ⟨hasWord_of_encode rfl rfl, fun hfree => ?_, fun hdepth => ?_⟩
  · refine ⟨_, exec_call_of_push_ok (push_of_not_full hfree), rfl, rfl, ?_, fun k hk => ?_, rfl⟩
    · exact (slot_pushed s s.pc s.sp).trans (if_pos rfl)
    · exact (slot_pushed s s.pc k).trans (if_neg hk)
  · exact exec_call_of_push_error (push_of_full (stackFull_of_depth hdepth))

theorem toNat_addrWord_add_zext16 (nnn : Addr) (b : Byte) :
    (addrWord nnn + zext16 b).toNat = nnn.toNat + b.toNat := by
  have := nnn.isLt
  have := b.isLt
  rw [addrWord_add_zext16, BitVec.toNat_ofNat]
  omega

/-- Settles O34: the sum of 12 and 8 bits fits in 16. -/
theorem jpvZeroJumpsToTheSum : Obligations.JpvZeroJumpsToTheSum :=
  fun nnn s => ⟨hasWord_of_encode rfl rfl, _, rfl, toNat_addrWord_add_zext16 nnn (s.reg 0), rfl⟩

/-! ### Skips -/

/-- A skip under a decidable condition (41_skip.md R146). -/
theorem skipIf_eq {p : Prop} [Decidable p] {c : Bool} (hc : c = true ↔ p) (s : State) :
    skipIf c s = { s with pc := if p then s.pc + 2 else s.pc } := by
  have hif : (if c = true then s.pc + 2 else s.pc) = if p then s.pc + 2 else s.pc := if_congr hc rfl rfl
  exact congrArg s.setPc hif

theorem next_skipIf_eq {p : Prop} [Decidable p] {c : Bool} (hc : c = true ↔ p) (s : State) :
    (Host.Outcome.next (skipIf c s) : Outcome) = .next { s with pc := if p then s.pc + 2 else s.pc } :=
  congrArg Host.Outcome.next (skipIf_eq hc s)

/-- Settles O35: both skip on a comparison with the immediate. -/
theorem skipsOnImmediate : Obligations.SkipsOnImmediate :=
  fun _ _ s => ⟨hasWord_of_encode rfl rfl, hasWord_of_encode rfl rfl, next_skipIf_eq beq_iff_eq s,
    next_skipIf_eq bne_iff_ne s⟩

/-- Settles O36: both skip on a comparison of two registers. -/
theorem skipsOnRegisters : Obligations.SkipsOnRegisters :=
  fun _ _ s => ⟨hasWord_of_encode rfl rfl, hasWord_of_encode rfl rfl, next_skipIf_eq beq_iff_eq s,
    next_skipIf_eq bne_iff_ne s⟩

/-- Settles O37: both skip on the host's answer, after the query is pulsed. -/
theorem skipsOnKeys : Obligations.SkipsOnKeys :=
  fun x s => ⟨hasWord_XLL rfl rfl rfl, hasWord_XLL rfl rfl rfl,
    next_skipIf_eq Iff.rfl (s.pulse (.keyQuery (s.reg x))),
    next_skipIf_eq (Iff.of_eq (Bool.not_eq_true' _)) (s.pulse (.keyQuery (s.reg x)))⟩

end Sys2Proof.Machine
end

section
/-! Load, arithmetic, logic, shift and random (42_alu.md). -/
namespace Sys2Proof.Machine

/-! ### LD, LDV, ADD and the logic -/

/-- Settles O38: both are one register write. -/
theorem loadsSetTheRegister : Obligations.LoadsSetTheRegister :=
  fun x _ _ s => ⟨hasWord_of_encode rfl rfl, hasWord_of_encode rfl rfl,
    ⟨_, rfl, State.reg_setReg_same s x _, setReg_keepsOthers s x _, rfl⟩,
    ⟨_, rfl, State.reg_setReg_same s x _, setReg_keepsOthers s x _, rfl⟩⟩

/-- Settles O39: the sum of two bytes is taken modulo 256. -/
theorem addWrapsWithoutFlag : Obligations.AddWrapsWithoutFlag := by
  refine fun x kk s => ⟨hasWord_of_encode rfl rfl, _, rfl, ?_, setReg_keepsOthers s x _, rfl⟩
  rw [State.reg_setReg_same, BitVec.toNat_add]

/-- Settles O40: the bits of the three results are the combined bits. -/
theorem logicCombinesTheRegisters : Obligations.LogicCombinesTheRegisters := by
  refine fun x y s => ⟨hasWord_XYN rfl rfl rfl, hasWord_XYN rfl rfl rfl, hasWord_XYN rfl rfl rfl,
    ⟨_, rfl, setReg_keepsOthers s x _, rfl, fun b _ => ?_⟩,
    ⟨_, rfl, setReg_keepsOthers s x _, rfl, fun b _ => ?_⟩,
    ⟨_, rfl, setReg_keepsOthers s x _, rfl, fun b _ => ?_⟩⟩
  · rw [State.reg_setReg_same, BitVec.getLsbD_or]
  · rw [State.reg_setReg_same, BitVec.getLsbD_and]
  · rw [State.reg_setReg_same, BitVec.getLsbD_xor]

/-! ### Result, then flag -/

theorem resultThenFlag_dest {x : Reg} (h : x ≠ vf) (b f : Byte) (s : State) :
    (resultThenFlag x b f s).reg x = b := by
  rw [resultThenFlag_reg, if_neg h, if_pos rfl]

theorem resultThenFlag_vf (x : Reg) (b f : Byte) (s : State) : (resultThenFlag x b f s).reg vf = f := by
  rw [resultThenFlag_reg, if_pos rfl]

theorem flag_decide (p : Prop) [Decidable p] : flag (decide p) = if p then 1 else 0 := by
  by_cases h : p <;> simp [flag, h]

/-- The difference of two bytes as an integer modulo 256 (42_alu.md R158). -/
theorem toNat_sub_eq_emod (a b : Byte) : ((a - b).toNat : Int) = (a.toNat - b.toNat : Int) % 256 := by
  have := a.isLt
  have := b.isLt
  rw [BitVec.toNat_sub]
  omega

/-- Settles O41: the sum in the destination, then the carry in VF. -/
theorem addvSetsSumThenCarry : Obligations.AddvSetsSumThenCarry := by
  refine fun x y s => ⟨hasWord_XYN rfl rfl rfl, _, rfl, fun hx => ?_,
    (resultThenFlag_vf x _ _ s).trans (flag_decide _), resultThenFlag_keepsOthers x _ _ s, rfl⟩
  rw [resultThenFlag_dest hx, BitVec.toNat_add]

/-- Settles O42: the difference in the destination, then the not-borrow flag in VF. -/
theorem subSetsDifferenceThenNotBorrow : Obligations.SubSetsDifferenceThenNotBorrow := by
  refine fun x y s => ⟨hasWord_XYN rfl rfl rfl, hasWord_XYN rfl rfl rfl,
    ⟨_, rfl, fun hx => ?_, (resultThenFlag_vf x _ _ s).trans (flag_decide _),
      resultThenFlag_keepsOthers x _ _ s, rfl⟩,
    ⟨_, rfl, fun hx => ?_, (resultThenFlag_vf x _ _ s).trans (flag_decide _),
      resultThenFlag_keepsOthers x _ _ s, rfl⟩⟩
  · rw [resultThenFlag_dest hx, toNat_sub_eq_emod]
  · rw [resultThenFlag_dest hx, toNat_sub_eq_emod]

/-! ### Flag, then result -/

theorem flagThenResult_dest (x : Reg) (b f : Byte) (s : State) : (flagThenResult x b f s).reg x = b := by
  rw [flagThenResult_reg, if_pos rfl]

theorem flagThenResult_vf {x : Reg} (h : x ≠ vf) (b f : Byte) (s : State) :
    (flagThenResult x b f s).reg vf = f := by
  rw [flagThenResult_reg, if_neg (Ne.symm h), if_pos rfl]

theorem flag_toNat (c : Bool) : (flag c).toNat = c.toNat := by cases c <;> rfl

theorem lowBit_toNat (p : Byte) : (lowBit p).toNat = p.toNat % 2 := by
  rw [lowBit, flag_toNat, BitVec.getLsbD, Nat.testBit_zero]
  rcases Nat.mod_two_eq_zero_or_one p.toNat with h | h <;> simp [h]

theorem highBit_toNat (p : Byte) : (highBit p).toNat = p.toNat / 128 := by
  have hp := p.isLt
  have hq : p.toNat / 128 = 0 ∨ p.toNat / 128 = 1 := by omega
  rw [highBit, flag_toNat, BitVec.getLsbD, Nat.testBit_eq_decide_div_mod_eq]
  rcases hq with h | h <;> simp [h]

/-- Settles O43: the bit shifted out in VF, then the register shifted by one. -/
theorem shiftsSetFlagThenResult : Obligations.ShiftsSetFlagThenResult := by
  refine fun x y s => ⟨hasWord_XYN rfl rfl rfl, hasWord_XYN rfl rfl rfl,
    ⟨_, rfl, ?_, fun hx => ?_, flagThenResult_keepsOthers x _ _ s, rfl⟩,
    ⟨_, rfl, ?_, fun hx => ?_, flagThenResult_keepsOthers x _ _ s, rfl⟩⟩
  · rw [flagThenResult_dest, BitVec.toNat_ushiftRight, Nat.shiftRight_eq_div_pow]
  · rw [flagThenResult_vf hx, lowBit_toNat]
  · rw [flagThenResult_dest, BitVec.toNat_shiftLeft, Nat.shiftLeft_eq]
  · rw [flagThenResult_vf hx, highBit_toNat]

/-! ### RND -/

theorem sampleRnd_of_scheduled {s : State} {b : Byte} {rest : List Byte} (h : s.rndIn = b :: rest) :
    sampleRnd s = (b, { s with rndIn := rest }) := by
  simp only [sampleRnd, h]

theorem sampleRnd_of_unscheduled {s : State} (h : s.rndIn = []) :
    sampleRnd s = (Config.rndSample s.freeCtr, { s with freeCtr := s.freeCtr + 1 }) := by
  simp only [sampleRnd, h]

/-- RND by the sample it takes (42_alu.md R162). -/
theorem exec_rnd_of_sample {x : Reg} {kk b : Byte} {s u : State} (h : sampleRnd s = (b, u)) :
    exec (.rnd x kk) s = .next (u.setReg x (b &&& kk)) := by
  simp only [exec, execRnd, h]

/-- A value under a mask has no bit outside it. -/
theorem and_mask_and_not (b kk : Byte) : b &&& kk &&& ~~~kk = 0 := by
  rw [BitVec.and_assoc, BitVec.and_not_self]
  exact BitVec.and_zero

/-- Settles O44: the scheduled byte under the mask, or a free value under it. -/
theorem rndMasksOneSample : Obligations.RndMasksOneSample := by
  refine fun x kk s => ⟨hasWord_of_encode rfl rfl, fun b rest h => ?_, fun h => ?_⟩
  · exact ⟨_, exec_rnd_of_sample (sampleRnd_of_scheduled h), State.reg_setReg_same _ x _,
      setReg_keepsOthers_of_v rfl x _, rfl⟩
  · refine ⟨_, exec_rnd_of_sample (sampleRnd_of_unscheduled h), ?_, setReg_keepsOthers_of_v rfl x _, rfl⟩
    rw [State.reg_setReg_same, and_mask_and_not]

end Sys2Proof.Machine
end

section
/-! The index register and memory (43_index_memory.md). LDBC, LDMW and LDMR go on with what `MemWrite` or
`MemRead` answers, or take its OutOfBounds. -/
namespace Sys2Proof.Machine

/-! ### LDI, ADDI, LDF -/

theorem toNat_addrWord (nnn : Addr) : (addrWord nnn).toNat = nnn.toNat := by
  have := nnn.isLt
  rw [addrWord_eq_ofNat, BitVec.toNat_ofNat]
  omega

/-- Settles O45: a 12-bit address is unchanged by the mask. -/
theorem ldiLoadsTheIndex : Obligations.LdiLoadsTheIndex := by
  refine fun nnn s => ⟨hasWord_of_encode rfl rfl, _, rfl, ?_, rfl⟩
  have := nnn.isLt
  rw [setI_i_toNat, toNat_addrWord]
  omega

/-- A sum into `I` is taken modulo 0x1000, also when the 16-bit sum wraps (10_state.md R14). -/
theorem setI_add_i_toNat (s u : State) (w : Word) :
    (s.setI (u.i + w)).i.toNat = (u.i.toNat + w.toNat) % 0x1000 := by
  rw [setI_i_toNat, BitVec.toNat_add]
  omega

theorem toNat_zext16 (b : Byte) : (zext16 b).toNat = b.toNat := by
  have := b.isLt
  rw [zext16, BitVec.toNat_setWidth]
  omega

theorem toNat_glyphAddr (b : Byte) : (glyphAddr b).toNat = 0x1B0 + 5 * b.toNat := by
  have := b.isLt
  simp only [glyphAddr, Config.fontBase, Config.glyphBytes, BitVec.toNat_ofNat]
  omega

/-- Settles O46: the sum is masked; the last glyph address, 0x6AB, is below the mask. -/
theorem addiAndLdfSetTheIndex : Obligations.AddiAndLdfSetTheIndex := by
  refine fun x s => ⟨hasWord_XLL rfl rfl rfl, hasWord_XLL rfl rfl rfl, ⟨_, rfl, ?_, rfl⟩, ⟨_, rfl, ?_, rfl⟩⟩
  · rw [setI_add_i_toNat, toNat_zext16]
  · have := (s.reg x).isLt
    rw [setI_i_toNat, toNat_glyphAddr]
    omega

/-! ### The instructions that access memory -/

section Meanings
variable {x : Reg} {s : State}

theorem exec_ldbc_of_ok {m : Memory} (h : memWrite s.mem s.i.toNat (bcdDigits (s.reg x)) = .ok m) :
    exec (.ldbc x) s = .next (s.setMem m) := by
  simp only [exec, execLdbc, effAddr, Nat.add_zero, h, orRaise]

theorem exec_ldbc_of_error {f : Fault} (h : memWrite s.mem s.i.toNat (bcdDigits (s.reg x)) = .error f) :
    exec (.ldbc x) s = .next (raise f (encode (.ldbc x)) s) := by
  simp only [exec, execLdbc, effAddr, Nat.add_zero, h, orRaise]

theorem exec_ldmw_of_ok {m : Memory} (h : memWrite s.mem s.i.toNat (regsUpTo s x) = .ok m) :
    exec (.ldmw x) s = .next ((s.setMem m).setI (s.i + BitVec.ofNat 16 x.val)) := by
  simp only [exec, execLdmw, effAddr, Nat.add_zero, h, orRaise]

theorem exec_ldmw_of_error {f : Fault} (h : memWrite s.mem s.i.toNat (regsUpTo s x) = .error f) :
    exec (.ldmw x) s = .next (raise f (encode (.ldmw x)) s) := by
  simp only [exec, execLdmw, effAddr, Nat.add_zero, h, orRaise]

theorem exec_ldmr_of_ok {bs : List Byte} (h : memRead s.mem s.i.toNat (x.val + 1) = .ok bs) :
    exec (.ldmr x) s = .next ((s.loadRegs bs).setI (s.i + BitVec.ofNat 16 x.val)) := by
  simp only [exec, execLdmr, effAddr, Nat.add_zero, h, orRaise]

theorem exec_ldmr_of_error {f : Fault} (h : memRead s.mem s.i.toNat (x.val + 1) = .error f) :
    exec (.ldmr x) s = .next (raise f (encode (.ldmr x)) s) := by
  simp only [exec, execLdmr, effAddr, Nat.add_zero, h, orRaise]

end Meanings

/-- What OutOfBounds of the span at `I` leaves, the opcode given by its value (60_exceptions.md R216). -/
theorem raise_outOfBounds_eq {i : Instr} {w : Nat} {s : State} (h : encode i = BitVec.ofNat 16 w) :
    (Host.Outcome.next (raise (.outOfBounds (max s.i.toNat 4096)) (encode i) s) : Outcome) =
      .next (faulted s .outOfBounds (BitVec.ofNat 16 w) (BitVec.ofNat 16 (max s.i.toNat 0x1000))) := by
  rw [h]
  rfl

/-- `I` advanced inside memory is the natural sum (43_index_memory.md R174). -/
theorem setI_advance_toNat (u s : State) (x : Reg) (h : s.i.toNat + x.val < 0x1000) :
    (u.setI (s.i + BitVec.ofNat 16 x.val)).i.toNat = s.i.toNat + x.val := by
  have := x.isLt
  rw [setI_add_i_toNat, BitVec.toNat_ofNat]
  omega

/-! ### LDBC -/

theorem bcdDigits_toNat (b : Byte) :
    ((bcdDigits b).getD 0 0).toNat = b.toNat / 100 ∧ ((bcdDigits b).getD 1 0).toNat = b.toNat / 10 % 10
      ∧ ((bcdDigits b).getD 2 0).toNat = b.toNat % 10 := by
  have := b.isLt
  simp only [bcdDigits, List.getD_cons_zero, List.getD_cons_succ, BitVec.toNat_ofNat]
  omega

/-- Settles O47: the three digits are written as one span. -/
theorem ldbcStoresTheDigits : Obligations.LdbcStoresTheDigits := by
  refine fun x s hm => ⟨hasWord_XLL rfl rfl rfl, fun h => ?_, fun h => ?_⟩
  · have hspan : s.i.toNat + (bcdDigits (s.reg x)).length ≤ 4096 := by
      simp only [bcdDigits, List.length]; omega
    have hget := fun k (hk : k < 3) => get_writeBytes_add (k := k) hm hspan hk
    obtain ⟨h0, h1, h2⟩ := bcdDigits_toNat (s.reg x)
    refine ⟨_, exec_ldbc_of_ok (memWrite_of_inRange (.inr hspan)), ?_, ?_, ?_,
      fun a ha => get_writeBytes_outside hm hspan ha, rfl⟩
    · exact (congrArg BitVec.toNat (hget 0 (by decide))).trans h0
    · exact (congrArg BitVec.toNat (hget 1 (by decide))).trans h1
    · exact (congrArg BitVec.toNat (hget 2 (by decide))).trans h2
  · have hspan : ¬(bcdDigits (s.reg x) = [] ∨ s.i.toNat + (bcdDigits (s.reg x)).length ≤ 4096) := by
      simp only [bcdDigits, List.length, reduceCtorEq, false_or]; omega
    rw [exec_ldbc_of_error (memWrite_of_not_inRange hspan)]
    exact raise_outOfBounds_eq (encXLL_eq 0xF 0x33 x)

/-! ### LDMW -/

/-- Settles O48: the registers up to `x` are written as one span. -/
theorem ldmwStoresTheRegisters : Obligations.LdmwStoresTheRegisters := by
  refine fun x s hm => ⟨hasWord_XLL rfl rfl rfl, fun h => ?_, fun h => ?_⟩
  · have hspan : s.i.toNat + (regsUpTo s x).length ≤ 4096 := by rw [regsUpTo_length]; omega
    refine ⟨_, exec_ldmw_of_ok (memWrite_of_inRange (.inr hspan)), fun k hk => ?_, fun a ha => ?_,
      setI_advance_toNat _ s x h, rfl⟩
    · have hlt : k.val < (regsUpTo s x).length := by rw [regsUpTo_length]; exact Nat.lt_succ_of_le hk
      exact (get_writeBytes_add hm hspan hlt).trans (regsUpTo_getD s x k hk)
    · exact get_writeBytes_outside hm hspan (by rwa [regsUpTo_length])
  · have hspan : ¬(regsUpTo s x = [] ∨ s.i.toNat + (regsUpTo s x).length ≤ 4096) := by
      rw [← List.length_eq_zero_iff, regsUpTo_length]; omega
    rw [exec_ldmw_of_error (memWrite_of_not_inRange hspan)]
    exact raise_outOfBounds_eq (encXLL_eq 0xF 0x55 x)

/-! ### LDMR -/

/-- Settles O49: the span read reaches exactly the registers up to `x`. -/
theorem ldmrLoadsTheRegisters : Obligations.LdmrLoadsTheRegisters := by
  refine fun x s => ⟨hasWord_XLL rfl rfl rfl, fun h => ?_, fun h => ?_⟩
  · refine ⟨_, exec_ldmr_of_ok (memRead_of_inRange (.inr (by omega))), fun k hk => ?_, fun k hk => ?_,
      setI_advance_toNat _ s x h, rfl⟩
    · rw [State.reg_setI, State.reg_loadRegs]
      exact readBytes_getD s.mem s.i.toNat (x.val + 1) k.val _ (Nat.lt_succ_of_le hk)
    · rw [State.reg_setI]
      exact reg_loadRegs_of_gt (readBytes_length _ _ _) hk
  · rw [exec_ldmr_of_error (memRead_of_not_inRange (by omega))]
    exact raise_outOfBounds_eq (encXLL_eq 0xF 0x65 x)

end Sys2Proof.Machine
end

section
/-! DRW and the blitter (44_display.md), the timers and the key wait (45_timer_key.md) and the debug exit
(46_debug.md). -/
namespace Sys2Proof.Machine

/-! ### DRW -/

section Meanings
variable {x y : Reg} {n : Nibble} {s : State}

theorem exec_drw_of_ok {rows : List Byte} (h : memRead s.mem s.i.toNat n.val = .ok rows) :
    exec (.drw x y n) s = .next (draw (drawReqOf x y n rows s) s) := by
  simp only [exec, execDrw, effAddr, Nat.add_zero, h, orRaise]

theorem exec_drw_of_error {f : Fault} (h : memRead s.mem s.i.toNat n.val = .error f) :
    exec (.drw x y n) s = .next (raise f (encode (.drw x y n)) s) := by
  simp only [exec, execDrw, effAddr, Nat.add_zero, h, orRaise]

end Meanings

/-- The request's pixels are the bits of the rows read, most significant first (44_display.md R182). -/
theorem spriteBit_drawReqOf (x y : Reg) (n : Nibble) (s : State) {r c : Nat} (hr : r < n.val) (hc : c < 8) :
    spriteBit (drawReqOf x y n (readBytes s.mem s.i.toNat n.val) s) r c =
      (Memory.get s.mem (s.i.toNat + r)).getLsbD (7 - c) := by
  have hlen : r < (readBytes s.mem s.i.toNat n.val).length := by rwa [readBytes_length]
  exact (bitmapOf_getD _ r c hlen hc).trans (by rw [readBytes_getD _ _ _ _ _ hr])

theorem draw_vf (req : DrawReq) (s : State) :
    (draw req s).reg vf = if (blit req s.fb).2 then 1 else 0 :=
  State.reg_setReg_same _ vf _

/-- Settles O51: DRW draws the request of the rows it reads, or takes the OutOfBounds of the read. -/
theorem drwDrawsAndReportsCollision : Obligations.DrwDrawsAndReportsCollision := by
  intro x y n s
  have hzero : n = 0 ↔ n.val = 0 := Fin.ext_iff
  refine ⟨hasWord_of_encode rfl rfl, fun h => ?_, fun h => ?_⟩
  · rw [hzero] at h
    refine ⟨_, drawReqOf x y n (readBytes s.mem s.i.toNat n.val) s, exec_drw_of_ok (memRead_of_inRange h),
      rfl, rfl, rfl, ?_, fun r c hr hc => spriteBit_drawReqOf x y n s hr hc, rfl, draw_vf _ s,
      setReg_keepsOthers_of_v rfl vf _, rfl⟩
    exact (bitmapOf_length _).trans (by rw [readBytes_length])
  · rw [hzero] at h
    rw [exec_drw_of_error (memRead_of_not_inRange h)]
    exact raise_outOfBounds_eq rfl

/-! ### Drawing twice -/

/-- A cell is flipped twice or not at all (44_display.md R184 (b)). -/
theorem blit_blit_plane (req : DrawReq) (p : Plane) : (blit req (blit req p).1).1 = p :=
  plane_ext _ _ fun y x => by rw [cell_blit, cell_blit, Bool.xor_assoc, Bool.xor_self, Bool.xor_false]

/-- Settles O53: under a set pixel the first drawing has flipped the cell that the second one tests. -/
theorem blitTwiceRestoresThePlane : Obligations.BlitTwiceRestoresThePlane := by
  refine fun req p => ⟨blit_blit_plane req p, (blit_collided_iff req _).trans ?_⟩
  refine exists_congr fun y => exists_congr fun x => exists_congr fun r => exists_congr fun c =>
    and_congr_right fun hhit => ?_
  rw [cell_blit_of_hit p ⟨r, c, hhit⟩, Bool.not_eq_true']

/-! ### The timers, the key wait and the debug exit -/

/-- Settles O54: each of the three moves one byte. -/
theorem timerInstructionsMoveAByte : Obligations.TimerInstructionsMoveAByte :=
  fun x s => ⟨hasWord_XLL rfl rfl rfl, hasWord_XLL rfl rfl rfl, hasWord_XLL rfl rfl rfl,
    ⟨_, rfl, State.reg_setReg_same s x _, setReg_keepsOthers s x _, rfl⟩, rfl, rfl⟩

/-- Settles O55: LDKP writes `WAIT_REG` and `RUN`. -/
theorem ldkpBeginsTheKeyWait : Obligations.LdkpBeginsTheKeyWait :=
  fun _ _ => ⟨hasWord_XLL rfl rfl rfl, rfl⟩

/-- Settles O56: ASSERT writes `EXIT_CODE` and `RUN`. -/
theorem assertHaltsWithTheIndex : Obligations.AssertHaltsWithTheIndex :=
  fun _ => ⟨hasWord_of_encode (i := .assert) rfl rfl, rfl⟩

end Sys2Proof.Machine
end
